-- ==== Sys2Proof/Word.lean ====
section
/-! DEFINITION. The word types of UINTC: the widths that 00_scope.md section 6 and 30_encoding.md R60 give. -/

namespace Sys2Proof

/-- The 64-bit value one transaction moves (R45). -/
abbrev Word := BitVec 64

/-- A 32-bit hart id, as the HartRegistry takes it (R11). -/
abbrev HartId := BitVec 32

/-- A slot index, `off[13:5]` (R60, R68). -/
abbrev SlotIx := BitVec 9

/-- The register selector inside a slot, `off[4:0]` (R60). -/
abbrev RegOff := BitVec 5

/-- The request key `K` of R62. -/
abbrev Key := BitVec 16

end Sys2Proof
end

