-- ==== Sys2Proof/Config.lean ====
section
/-! DEFINITION. The design's constants (R6, R7, R34, D25), the configuration a controller is constructed with
(R8 to R12), and the one free value of the model (the arbiter's order, R51). -/

namespace Sys2Proof

/-- R6: the number of slots, whatever `numHarts` is. -/
def Config.maxSlots : Nat := 512

/-- R7: a slot occupies a 32-byte aligned block. -/
def Config.slotBytes : Nat := 32

/-- R7: the register window has `MAX_SLOTS * 32 = 0x4000` bytes. -/
def Config.windowBytes : Nat := Config.maxSlots * Config.slotBytes

/-- R72 `regoff(SEND)`. -/
def Config.regSend : RegOff := 0x00
/-- R90: offset `0x04`, which is no register. -/
def Config.regRsvd04 : RegOff := 0x04
/-- R72 `regoff(LOW)`. -/
def Config.regLow : RegOff := 0x08
/-- R72 `regoff(LOW_HI)`. -/
def Config.regLowHi : RegOff := 0x0C
/-- R72 `regoff(HIGH)`. -/
def Config.regHigh : RegOff := 0x10
/-- R72 `regoff(HIGH_HI)`. -/
def Config.regHighHi : RegOff := 0x14
/-- R72 `regoff(ACTIVE)`. -/
def Config.regActive : RegOff := 0x18
/-- R72 `regoff(ACTIVE_HI)`. -/
def Config.regActiveHi : RegOff := 0x1C

/-- The configuration of R8 to R11. It is a field of State that no step writes (R12, R31), so that a statement
about every state speaks of every configuration. `presentHarts` lists the harts the HartRegistry knows: it is
`hartPresent` of R11 as plain data (log entry 3, UNVERIFIED, spec decision D27: it never changes). -/
structure Configuration where
  /-- R8: the bus address of offset 0 of the window. -/
  baseAddress : BitVec 64
  /-- R9: the hart that output line 0 is wired to. -/
  hartIdBase : HartId
  /-- R10: the number of output lines. -/
  numHarts : BitVec 32
  /-- R11: the harts whose lookup returns a handle. -/
  presentHarts : List HartId
  deriving DecidableEq, Repr

/-- DESIGN CHOICE (log entry 2, unsafe): the configuration `State.reset` is constructed with, the spec's CFG-A
(95_test_vectors.md section 0). Configuration values are parameters (U7, U8); `State.construct` takes any. -/
def Config.resetConfiguration : Configuration where
  baseAddress := 0x10000000
  hartIdBase := 0
  numHarts := 4
  presentHarts := [0, 1, 2, 3]

/-- FREE VALUE (log entry 4): the arbiter's pick when State's `choices` names none, applied to the number of
transactions served so far. R51: "The order among transactions that different masters have outstanding at the
same time is not determined". It has no body, so no proof can know a value of it. -/
opaque Config.arbiterChoice : Nat → Nat

end Sys2Proof
end

