-- ==== Sys2Proof/Syntax.lean ====
section
/-! DEFINITION. The request a bus master presents (R60) and the 24 operations it can select (R63): one constructor
per row of spec/opcode_table.json. -/

namespace Sys2Proof

/-- R40, R60: one bus transaction, kept as three fields as R60 asks. `wdata` is ignored when `we` is false. -/
structure Request where
  we : Bool
  off : Word
  wdata : Word
  deriving DecidableEq, Repr

/-- The operations of R63. An in-window register access carries its slot index, a misaligned or out-of-window
access the whole offset (the table's operands), a write its data. -/
inductive Instr where
  | rdSend (i : SlotIx)
  | wrSend (i : SlotIx) (wdata : Word)
  | rdRsvd04 (i : SlotIx)
  | wrRsvd04 (i : SlotIx) (wdata : Word)
  | rdLow (i : SlotIx)
  | wrLow (i : SlotIx) (wdata : Word)
  | rdLowHi (i : SlotIx)
  | wrLowHi (i : SlotIx) (wdata : Word)
  | rdHigh (i : SlotIx)
  | wrHigh (i : SlotIx) (wdata : Word)
  | rdHighHi (i : SlotIx)
  | wrHighHi (i : SlotIx) (wdata : Word)
  | rdActive (i : SlotIx)
  | wrActive (i : SlotIx) (wdata : Word)
  | rdActiveHi (i : SlotIx)
  | wrActiveHi (i : SlotIx) (wdata : Word)
  | rdMisal1 (off : Word)
  | rdMisal2 (off : Word)
  | rdMisal3 (off : Word)
  | wrMisal1 (off : Word) (wdata : Word)
  | wrMisal2 (off : Word) (wdata : Word)
  | wrMisal3 (off : Word) (wdata : Word)
  | rdOor (off : Word)
  | wrOor (off : Word) (wdata : Word)
  deriving DecidableEq, Repr

/-- The rows of R63 without their operands. -/
inductive Op where
  | rdSend | wrSend | rdRsvd04 | wrRsvd04 | rdLow | wrLow | rdLowHi | wrLowHi
  | rdHigh | wrHigh | rdHighHi | wrHighHi | rdActive | wrActive | rdActiveHi | wrActiveHi
  | rdMisal1 | rdMisal2 | rdMisal3 | wrMisal1 | wrMisal2 | wrMisal3 | rdOor | wrOor
  deriving DecidableEq, Repr

/-- The row an operation belongs to. -/
def Instr.op : Instr → Op
  | .rdSend _ => .rdSend
  | .wrSend _ _ => .wrSend
  | .rdRsvd04 _ => .rdRsvd04
  | .wrRsvd04 _ _ => .wrRsvd04
  | .rdLow _ => .rdLow
  | .wrLow _ _ => .wrLow
  | .rdLowHi _ => .rdLowHi
  | .wrLowHi _ _ => .wrLowHi
  | .rdHigh _ => .rdHigh
  | .wrHigh _ _ => .wrHigh
  | .rdHighHi _ => .rdHighHi
  | .wrHighHi _ _ => .wrHighHi
  | .rdActive _ => .rdActive
  | .wrActive _ _ => .wrActive
  | .rdActiveHi _ => .rdActiveHi
  | .wrActiveHi _ _ => .wrActiveHi
  | .rdMisal1 _ => .rdMisal1
  | .rdMisal2 _ => .rdMisal2
  | .rdMisal3 _ => .rdMisal3
  | .wrMisal1 _ _ => .wrMisal1
  | .wrMisal2 _ _ => .wrMisal2
  | .wrMisal3 _ _ => .wrMisal3
  | .rdOor _ => .rdOor
  | .wrOor _ _ => .wrOor

/-- Every row of R63, in the table's order. -/
def Op.all : List Op :=
  [.rdSend, .wrSend, .rdRsvd04, .wrRsvd04, .rdLow, .wrLow, .rdLowHi, .wrLowHi,
   .rdHigh, .wrHigh, .rdHighHi, .wrHighHi, .rdActive, .wrActive, .rdActiveHi, .wrActiveHi,
   .rdMisal1, .rdMisal2, .rdMisal3, .wrMisal1, .wrMisal2, .wrMisal3, .rdOor, .wrOor]

/-- R63: is the row a write (`we = 1`)? -/
def Op.isWrite : Op → Bool
  | .wrSend | .wrRsvd04 | .wrLow | .wrLowHi | .wrHigh | .wrHighHi | .wrActive | .wrActiveHi
  | .wrMisal1 | .wrMisal2 | .wrMisal3 | .wrOor => true
  | .rdSend | .rdRsvd04 | .rdLow | .rdLowHi | .rdHigh | .rdHighHi | .rdActive | .rdActiveHi
  | .rdMisal1 | .rdMisal2 | .rdMisal3 | .rdOor => false

/-- The slot an operation is addressed to: none for the misaligned and out-of-window operations, which address
no register and read no slot (R64, R132). -/
def Instr.slot? : Instr → Option SlotIx
  | .rdSend i => some i
  | .wrSend i _ => some i
  | .rdRsvd04 i => some i
  | .wrRsvd04 i _ => some i
  | .rdLow i => some i
  | .wrLow i _ => some i
  | .rdLowHi i => some i
  | .wrLowHi i _ => some i
  | .rdHigh i => some i
  | .wrHigh i _ => some i
  | .rdHighHi i => some i
  | .wrHighHi i _ => some i
  | .rdActive i => some i
  | .wrActive i _ => some i
  | .rdActiveHi i => some i
  | .wrActiveHi i _ => some i
  | .rdMisal1 _ => none
  | .rdMisal2 _ => none
  | .rdMisal3 _ => none
  | .wrMisal1 _ _ => none
  | .wrMisal2 _ _ => none
  | .wrMisal3 _ _ => none
  | .rdOor _ => none
  | .wrOor _ _ => none

end Sys2Proof
end

