-- ==== Sys2Proof/WellFormed.lean ====
section
/-! DEFINITION. Which operations a request can select: the operands each row of R63 admits. A slot index is 9 bits and always
in range; a misaligned row needs an in-window offset with the row's low bits, an out-of-window row an offset at or
above `0x4000`. -/

namespace Sys2Proof

/-- R132: an in-window offset with `off[1:0] = n`. -/
def misalignedBy (n : BitVec 2) (off : Word) : Bool :=
  decide (off.toNat < Config.windowBytes) && off.extractLsb' 0 2 == n

/-- R131: `off >= 0x4000`. -/
def outOfWindow (off : Word) : Bool :=
  decide (Config.windowBytes ≤ off.toNat)

/-- The operands are ones the row's encoding admits. -/
def Instr.wellFormed : Instr → Bool
  | .rdSend _ => true
  | .wrSend _ _ => true
  | .rdRsvd04 _ => true
  | .wrRsvd04 _ _ => true
  | .rdLow _ => true
  | .wrLow _ _ => true
  | .rdLowHi _ => true
  | .wrLowHi _ _ => true
  | .rdHigh _ => true
  | .wrHigh _ _ => true
  | .rdHighHi _ => true
  | .wrHighHi _ _ => true
  | .rdActive _ => true
  | .wrActive _ _ => true
  | .rdActiveHi _ => true
  | .wrActiveHi _ _ => true
  | .rdMisal1 off => misalignedBy 1 off
  | .rdMisal2 off => misalignedBy 2 off
  | .rdMisal3 off => misalignedBy 3 off
  | .wrMisal1 off _ => misalignedBy 1 off
  | .wrMisal2 off _ => misalignedBy 2 off
  | .wrMisal3 off _ => misalignedBy 3 off
  | .rdOor off => outOfWindow off
  | .wrOor off _ => outOfWindow off

end Sys2Proof
end

