-- ==== Sys2Proof/Decode.lean ====
section
/-! DEFINITION. Decode (R60 to R67): a total function from a request to an operation, the encoder written from the same
table, the match and mask rows of R63, and the host's table word. -/

namespace Sys2Proof

/-- R61: `slotIndex = offset >> 5`, for an in-window offset the 9 bits `off[13:5]`. -/
def slotIndex (off : Word) : SlotIx := off.extractLsb' 5 9

/-- R61: `reg = offset & 0x1f`. -/
def regSelect (off : Word) : RegOff := off.extractLsb' 0 5

/-- R64: the window test, made before anything else. -/
def inWindow (off : Word) : Bool := decide (off.toNat < Config.windowBytes)

/-- What the five bits `reg` select: one of the seven registers, offset `0x04`, or nothing because `reg` is no
multiple of 4 (R44). -/
inductive RegSel where
  | send | rsvd04 | low | lowHi | high | highHi | active | activeHi | misal1 | misal2 | misal3
  deriving DecidableEq, Repr

/-- R44, R70: the decoder dispatches on `reg` alone. -/
def RegSel.ofReg (reg : RegOff) : RegSel :=
  if reg = Config.regSend then .send
  else if reg = Config.regRsvd04 then .rsvd04
  else if reg = Config.regLow then .low
  else if reg = Config.regLowHi then .lowHi
  else if reg = Config.regHigh then .high
  else if reg = Config.regHighHi then .highHi
  else if reg = Config.regActive then .active
  else if reg = Config.regActiveHi then .activeHi
  else if reg.extractLsb' 0 2 = 1 then .misal1
  else if reg.extractLsb' 0 2 = 2 then .misal2
  else .misal3

/-- R70, the read column of the dispatch for an in-window offset. -/
def decodeRead (off : Word) : Instr :=
  match RegSel.ofReg (regSelect off) with
  | .send => .rdSend (slotIndex off)
  | .rsvd04 => .rdRsvd04 (slotIndex off)
  | .low => .rdLow (slotIndex off)
  | .lowHi => .rdLowHi (slotIndex off)
  | .high => .rdHigh (slotIndex off)
  | .highHi => .rdHighHi (slotIndex off)
  | .active => .rdActive (slotIndex off)
  | .activeHi => .rdActiveHi (slotIndex off)
  | .misal1 => .rdMisal1 off
  | .misal2 => .rdMisal2 off
  | .misal3 => .rdMisal3 off

/-- R70, the write column of the dispatch for an in-window offset. -/
def decodeWrite (off wdata : Word) : Instr :=
  match RegSel.ofReg (regSelect off) with
  | .send => .wrSend (slotIndex off) wdata
  | .rsvd04 => .wrRsvd04 (slotIndex off) wdata
  | .low => .wrLow (slotIndex off) wdata
  | .lowHi => .wrLowHi (slotIndex off) wdata
  | .high => .wrHigh (slotIndex off) wdata
  | .highHi => .wrHighHi (slotIndex off) wdata
  | .active => .wrActive (slotIndex off) wdata
  | .activeHi => .wrActiveHi (slotIndex off) wdata
  | .misal1 => .wrMisal1 off wdata
  | .misal2 => .wrMisal2 off wdata
  | .misal3 => .wrMisal3 off wdata

/-- R61, R64, R70: the operation a request selects. Every request selects one (R63), so nothing is rejected. -/
def decode (r : Request) : Instr :=
  if inWindow r.off then
    if r.we then decodeWrite r.off r.wdata else decodeRead r.off
  else
    if r.we then .wrOor r.off r.wdata else .rdOor r.off

/-- R21, R60: the window offset of register `reg` of slot `i`, `{off[63:14] = 0, i, reg}`, that is `32*i + reg`. -/
def slotOffset (i : SlotIx) (reg : RegOff) : Word := (0 : BitVec 50) ++ i ++ reg

/-- A read request; its data are ignored (R60) and written as 0. -/
def Request.read (off : Word) : Request := ⟨false, off, 0⟩

/-- A write request. -/
def Request.write (off wdata : Word) : Request := ⟨true, off, wdata⟩

/-- The request of an operation, from the encodings of R63. -/
def encode : Instr → Request
  | .rdSend i => .read (slotOffset i Config.regSend)
  | .wrSend i w => .write (slotOffset i Config.regSend) w
  | .rdRsvd04 i => .read (slotOffset i Config.regRsvd04)
  | .wrRsvd04 i w => .write (slotOffset i Config.regRsvd04) w
  | .rdLow i => .read (slotOffset i Config.regLow)
  | .wrLow i w => .write (slotOffset i Config.regLow) w
  | .rdLowHi i => .read (slotOffset i Config.regLowHi)
  | .wrLowHi i w => .write (slotOffset i Config.regLowHi) w
  | .rdHigh i => .read (slotOffset i Config.regHigh)
  | .wrHigh i w => .write (slotOffset i Config.regHigh) w
  | .rdHighHi i => .read (slotOffset i Config.regHighHi)
  | .wrHighHi i w => .write (slotOffset i Config.regHighHi) w
  | .rdActive i => .read (slotOffset i Config.regActive)
  | .wrActive i w => .write (slotOffset i Config.regActive) w
  | .rdActiveHi i => .read (slotOffset i Config.regActiveHi)
  | .wrActiveHi i w => .write (slotOffset i Config.regActiveHi) w
  | .rdMisal1 off => .read off
  | .rdMisal2 off => .read off
  | .rdMisal3 off => .read off
  | .wrMisal1 off w => .write off w
  | .wrMisal2 off w => .write off w
  | .wrMisal3 off w => .write off w
  | .rdOor off => .read off
  | .wrOor off w => .write off w

/-- R60: the request with its ignored part, the data of a read, written as 0. -/
def Request.canonical (r : Request) : Request :=
  if r.we then r else ⟨false, r.off, 0⟩

/-- R62: `K[15] = we`, `K[14] = oor`, `K[13:0] = off[13:0]`. -/
def Request.key (r : Request) : Key :=
  BitVec.ofBool r.we ++ BitVec.ofBool (outOfWindow r.off) ++ r.off.extractLsb' 0 14

/-- R63: the mask column. -/
def Op.mask : Op → Key
  | .rdSend | .wrSend | .rdRsvd04 | .wrRsvd04 | .rdLow | .wrLow | .rdLowHi | .wrLowHi
  | .rdHigh | .wrHigh | .rdHighHi | .wrHighHi | .rdActive | .wrActive | .rdActiveHi | .wrActiveHi => 0xC01F
  | .rdMisal1 | .rdMisal2 | .rdMisal3 | .wrMisal1 | .wrMisal2 | .wrMisal3 => 0xC003
  | .rdOor | .wrOor => 0xC000

/-- R63: the match column. -/
def Op.pattern : Op → Key
  | .rdSend => 0x0000
  | .wrSend => 0x8000
  | .rdRsvd04 => 0x0004
  | .wrRsvd04 => 0x8004
  | .rdLow => 0x0008
  | .wrLow => 0x8008
  | .rdLowHi => 0x000C
  | .wrLowHi => 0x800C
  | .rdHigh => 0x0010
  | .wrHigh => 0x8010
  | .rdHighHi => 0x0014
  | .wrHighHi => 0x8014
  | .rdActive => 0x0018
  | .wrActive => 0x8018
  | .rdActiveHi => 0x001C
  | .wrActiveHi => 0x801C
  | .rdMisal1 => 0x0001
  | .rdMisal2 => 0x0002
  | .rdMisal3 => 0x0003
  | .wrMisal1 => 0x8001
  | .wrMisal2 => 0x8002
  | .wrMisal3 => 0x8003
  | .rdOor => 0x4000
  | .wrOor => 0xC000

/-- R63: `K & mask = match`. -/
def Op.accepts (o : Op) (k : Key) : Bool := k &&& o.mask == o.pattern

/-- The request a word of spec/opcode_table.json stands for (log entry 1, DESIGN CHOICE). The table numbers the bits
of `K` (R62): `we = K[15]`, `off[14] = K[14]` (the lowest bit that makes the offset out of window),
`off[13:0] = K[13:0]`, `off[63:15] = 0`. The write data are the 64 bits above the key, which are 0 in a table word. -/
def requestOfTableWord (nbits w : Nat) : Request where
  we := (w % 2 ^ nbits).testBit 15
  off := BitVec.ofNat 64 (w % 2 ^ nbits % 2 ^ 15)
  wdata := BitVec.ofNat 64 (w % 2 ^ nbits / 2 ^ 16)

/-- The host's probe: the operation the decoder reads from a table word. -/
def decodeTableWord (nbits w : Nat) : Option Instr := some (decode (requestOfTableWord nbits w))

end Sys2Proof
end

