-- ==== Sys2Proof/Machine/State.lean ====
section
/-! DEFINITION. The state: the SlotTable (R20), the configuration it is held beside (R31), the outputs of a step (R14, R32,
R33), the bus masters and the arbiter's order (R13, R51). Plain data throughout. -/

namespace Sys2Proof.Machine

/-- R23: which pending field is live. Narrow is 0, Wide is 1. -/
inductive Width where
  | narrow
  | wide
  deriving DecidableEq, Repr

/-- R20: one slot, exactly five fields. -/
structure Slot where
  /-- R22: "whether the slot currently participates in delivery." -/
  active : Bool
  /-- R23 -/
  width : Width
  /-- R24: the hart that is notified. -/
  targetHart : BitVec 16
  /-- R25: live only when Narrow. -/
  pendingNarrow : BitVec 32
  /-- R26: live only when Wide. -/
  pendingWide : BitVec 64
  deriving DecidableEq, Repr

/-- R35: a slot after construction, and what a slot the table does not list holds. -/
def Slot.zero : Slot := ⟨false, .narrow, 0, 0, 0⟩

/-- R141: the kinds of diagnostic event. -/
inductive DiagKind where
  | invalidRead
  | invalidWrite
  | targetNotFound
  | targetUnwired
  | sendRange
  deriving DecidableEq, Repr

/-- R141: a diagnostic event is a record `(kind, off, wdata)`. -/
structure DiagEvent where
  kind : DiagKind
  off : Word
  wdata : Word
  deriving DecidableEq, Repr

/-- One served transaction as an observer sees it (00_scope.md section 5): which master, its request, the read
data it was answered with (0 for a write, R40). Every response is success (R46), so it needs no field. -/
structure Completion where
  master : Nat
  req : Request
  rdata : Word
  deriving DecidableEq, Repr

/-- The machine. `slots` is the SlotTable of R20 in canonical sparse form: the slots that differ from
`Slot.zero`, by rising index (log entry 8, DESIGN CHOICE, safe); `State.slot` reads all 512. -/
structure State where
  /-- R8 to R12, R31: the configuration; no step writes it. -/
  cfg : Configuration
  /-- R20: the SlotTable. -/
  slots : List (Nat × Slot)
  /-- R14, R40: the response of the transaction last served. -/
  rdata : Word
  /-- R32, R149: the lines on which an edge was emitted, oldest first. -/
  edges : List Nat
  /-- R33, R141: the diagnostic events emitted, oldest first. -/
  diags : List DiagEvent
  /-- R13: for each bus master the requests it still has to have served, in the order it issues them. The first
  is its outstanding transaction; the others are issued as their predecessors complete. -/
  masters : List (List Request)
  /-- R51: the arbiter's coming picks (the model's own field, log entry 4). -/
  choices : List Nat
  /-- The transactions served, oldest first (observation; no rule reads it). -/
  served : List Completion
  deriving DecidableEq, Repr

/-- The reasons the machine stops with a fault: NONE. R46: "No access to any offset produces a bus error, a fault
or a retry"; R140. The type has no constructor, so that no step can fault. -/
inductive Fault where
  deriving DecidableEq, Repr

/-- The reasons the model refuses to go on. -/
inductive Refusal where
  /-- Raised by an arm of `exec` whose operation has no meaning yet; safe. No arm raises it in this model. -/
  | notModelled (mnemonic : String)
  /-- Raised by `step` in a state whose configuration breaks a precondition of R171; safe: such a controller "does
  not exist, so no rule describes its behaviour" (R148), and "A model refuses a configuration that breaks any of
  them; it does not run it" (R171). -/
  | invalidConfiguration
  deriving DecidableEq, Repr

/-- R172, R35: the state after construction with a configuration: every field of every slot 0, lines idle, no
event. No master has issued a transaction yet (R170). `rdata` is 0 (log entry 7, DESIGN CHOICE) and the arbiter has
no pick listed (log entry 4). -/
def State.construct (cfg : Configuration) : State where
  cfg := cfg
  slots := []
  rdata := 0
  edges := []
  diags := []
  masters := []
  choices := []
  served := []

/-- The machine right after its only reset, construction (R175), with the configuration of log entry 2. -/
def State.reset : State := State.construct Config.resetConfiguration

end Sys2Proof.Machine
end

