-- ==== Sys2Proof/Machine/Operands.lean ====
section
/-! DEFINITION. The operand forms (R68) and the arithmetic (R69): bit fields of `wdata`, taken unsigned, and the values the
operations build from slot fields. -/

namespace Sys2Proof.Machine

/-- R68 `hart = wdata[31:16]`. -/
def hartField (wdata : Word) : BitVec 16 := wdata.extractLsb' 16 16

/-- R68 `pend32 = hi32 = wdata[31:0]`. -/
def lowHalf (wdata : Word) : BitVec 32 := wdata.extractLsb' 0 32

/-- Bits 63:32 of a 64-bit value. -/
def highHalf (v : Word) : BitVec 32 := v.extractLsb' 32 32

/-- R68 `nz = (wdata[63:0] != 0)`, all 64 bits (D11). -/
def isNonzero (wdata : Word) : Bool := wdata != 0

/-- R23: the width a bit stands for, 0 Narrow and 1 Wide. -/
def Width.ofBit (b : Bool) : Width := if b then .wide else .narrow

/-- R23: the bit of a width. -/
def Width.bit : Width → Bool
  | .narrow => false
  | .wide => true

/-- R69 (2): zero-extension of a 32-bit field. -/
def zext32 (v : BitVec 32) : Word := v.setWidth 64

/-- R69 (2): zero-extension of one bit. -/
def zext1 (b : Bool) : Word := (BitVec.ofBool b).setWidth 64

/-- R82: the 16-bit target zero-extended to a hart id. -/
def zextHart (h : BitVec 16) : HartId := h.setWidth 32

/-- R100, R69 (1): `zext_64({targetHart, 0[13:0], width, active})`. -/
def packLow (v : Slot) : Word :=
  (v.targetHart ++ (0 : BitVec 14) ++ BitVec.ofBool v.width.bit ++ BitVec.ofBool v.active).setWidth 64

/-- R101: `targetHart <- wdata[31:16]`, `width <- wdata[1]`, `active <- wdata[0]`. -/
def Slot.withLow (v : Slot) (wdata : Word) : Slot :=
  { v with
    targetHart := hartField wdata
    width := Width.ofBit (wdata.getLsbD 1)
    active := wdata.getLsbD 0 }

/-- R110: the pending-bit selector, the live field as a 64-bit value (zero-extended when Narrow, R111). -/
def Slot.live (v : Slot) : Word :=
  match v.width with
  | .wide => v.pendingWide
  | .narrow => zext32 v.pendingNarrow

/-- R112: overwrite the live pending field. -/
def Slot.withLive (v : Slot) (wdata : Word) : Slot :=
  match v.width with
  | .wide => { v with pendingWide := wdata }
  | .narrow => { v with pendingNarrow := lowHalf wdata }

/-- R114, R69 (4): or `wdata[31:0]` into bits 63:32 of `pendingWide`. -/
def Slot.orWideHigh (v : Slot) (wdata : Word) : Slot :=
  { v with pendingWide := v.pendingWide ||| (zext32 (lowHalf wdata) <<< 32) }

/-- R80 step 3, R69 (6): set bit `b` of the live field. Used only after the range check of R83. -/
def Slot.setLiveBit (v : Slot) (b : Word) : Slot :=
  match v.width with
  | .wide => { v with pendingWide := v.pendingWide ||| ((1 : BitVec 64) <<< b.toNat) }
  | .narrow => { v with pendingNarrow := v.pendingNarrow ||| ((1 : BitVec 32) <<< b.toNat) }

/-- R121: overwrite `active`. -/
def Slot.withActive (v : Slot) (b : Bool) : Slot := { v with active := b }

end Sys2Proof.Machine
end

