-- ==== Sys2Proof/Machine/Flags.lean ====
section
/-! DEFINITION. The block has no flags or condition codes (R30). This file holds the one-bit conditions its operations and its
construction test (R69 items 7 and 8, R82, R83, R171). -/

namespace Sys2Proof.Machine

/-- R110: how many bit positions the live field has. -/
def Slot.liveBits (v : Slot) : Nat :=
  match v.width with
  | .wide => 64
  | .narrow => 32

/-- R83: an in-range bit position, compared unsigned on all 64 bits of `wdata` (D12). -/
def Slot.inRange (v : Slot) (b : Word) : Bool := decide (b.toNat < v.liveBits)

/-- R11: `hartPresent(h)`. -/
def hartPresent (cfg : Configuration) (h : HartId) : Bool := cfg.presentHarts.contains h

/-- R80 step 2, R69 (8): the line wired to hart `h`, compared as unbounded integers; none when `h` is outside
`[hartIdBase, hartIdBase + numHarts)`. -/
def lineOf (cfg : Configuration) (h : HartId) : Option Nat :=
  if cfg.hartIdBase.toNat ≤ h.toNat ∧ h.toNat < cfg.hartIdBase.toNat + cfg.numHarts.toNat then
    some (h.toNat - cfg.hartIdBase.toNat)
  else none

/-- R9, R150, R173: line `k` is wired to hart `hartIdBase + k`. -/
def wiredHart (cfg : Configuration) (k : Nat) : HartId := cfg.hartIdBase + BitVec.ofNat 32 k

/-- The harts wired by the configuration (glossary: wired hart). -/
def wiredHarts (cfg : Configuration) : List HartId :=
  (List.range cfg.numHarts.toNat).map (wiredHart cfg)

/-- R171, R8: `baseAddress` is 32-byte aligned. -/
def baseAligned (cfg : Configuration) : Bool := cfg.baseAddress.extractLsb' 0 5 == 0

/-- R171, R10: `numHarts <= MAX_SLOTS`. -/
def hartsFit (cfg : Configuration) : Bool := decide (cfg.numHarts.toNat ≤ Config.maxSlots)

/-- R171, R10 (D19): `numHarts >= 1`. -/
def hartsSome (cfg : Configuration) : Bool := decide (1 ≤ cfg.numHarts.toNat)

/-- R171, R9 (D19): no wired hart id wraps. -/
def hartIdsFit (cfg : Configuration) : Bool :=
  decide (cfg.hartIdBase.toNat + cfg.numHarts.toNat ≤ 2 ^ 32)

/-- R171, R8 (D3): the window does not wrap. -/
def windowFits (cfg : Configuration) : Bool :=
  decide (cfg.baseAddress.toNat + Config.windowBytes ≤ 2 ^ 64)

/-- R171, R11 (D13): every wired hart is present. -/
def wiredPresent (cfg : Configuration) : Bool := (wiredHarts cfg).all (hartPresent cfg)

/-- R171: the preconditions of the configuration type. -/
def configValid (cfg : Configuration) : Bool :=
  hartsFit cfg && baseAligned cfg && hartsSome cfg && hartIdsFit cfg && windowFits cfg && wiredPresent cfg

end Sys2Proof.Machine
end

