-- ==== Sys2Proof/Machine/Ops.lean ====
section
/-! DEFINITION. The named operations over the slot register file and the outputs, which every meaning is written with. The
block takes no exceptions (R140, R155, R156): where a processor's model takes an exception, this one reports a
diagnostic event (`State.report`), by the one policy of R130. -/

namespace Sys2Proof.Machine

/-- What a step answers. -/
abbrev Result := Host.Outcome State Fault Refusal

/-- The slot at index `k` of a table; a slot the table does not list is `Slot.zero` (R35). -/
def SlotTable.get (t : List (Nat × Slot)) (k : Nat) : Slot :=
  match t with
  | [] => Slot.zero
  | (j, v) :: rest => if j = k then v else SlotTable.get rest k

/-- Put an entry before the first one of a greater index. -/
def SlotTable.insert (t : List (Nat × Slot)) (k : Nat) (v : Slot) : List (Nat × Slot) :=
  match t with
  | [] => [(k, v)]
  | (j, w) :: rest => if k < j then (k, v) :: (j, w) :: rest else (j, w) :: SlotTable.insert rest k v

/-- Remove the entries of index `k`. -/
def SlotTable.erase (t : List (Nat × Slot)) (k : Nat) : List (Nat × Slot) :=
  t.filter (fun e => e.1 != k)

/-- Write slot `k`. Writing what an unlisted slot holds removes the entry, so that equal tables are equal lists. -/
def SlotTable.set (t : List (Nat × Slot)) (k : Nat) (v : Slot) : List (Nat × Slot) :=
  if v = Slot.zero then SlotTable.erase t k else SlotTable.insert (SlotTable.erase t k) k v

/-- The indices rise strictly from above `lo` and stay below `MAX_SLOTS`; no entry is the zero slot. -/
def SlotTable.wfFrom (lo : Nat) (t : List (Nat × Slot)) : Bool :=
  match t with
  | [] => true
  | (j, v) :: rest =>
    decide (lo ≤ j) && decide (j < Config.maxSlots) && decide (v ≠ Slot.zero) && SlotTable.wfFrom (j + 1) rest

/-- The canonical form of the SlotTable (log entry 8). -/
def SlotTable.wf (t : List (Nat × Slot)) : Bool := SlotTable.wfFrom 0 t

/-- `slot[i]` (00_scope.md section 6). -/
def State.slot (s : State) (i : SlotIx) : Slot := SlotTable.get s.slots i.toNat

/-- `slot[i] <- v`. -/
def State.setSlot (s : State) (i : SlotIx) (v : Slot) : State :=
  { s with slots := SlotTable.set s.slots i.toNat v }

/-- `return v`: end the operation with `rdata = v` and success (R14, R46). -/
def State.respond (s : State) (v : Word) : State := { s with rdata := v }

/-- `raise irq[k]`: emit one edge on output line `k` (R85, R149). -/
def State.raise (s : State) (k : Nat) : State := { s with edges := s.edges ++ [k] }

/-- `diag <Kind>(off, wdata)`: emit one diagnostic event (R141). -/
def State.report (s : State) (kind : DiagKind) (off wdata : Word) : State :=
  { s with diags := s.diags ++ [⟨kind, off, wdata⟩] }

/-- A read that is carried out: it returns `v` and changes nothing else (R47). -/
def readDone (v : Word) (s : State) : Result := .next (s.respond v)

/-- A write that is carried out; its `rdata` is 0 (R70). -/
def writeDone (s : State) : Result := .next (s.respond 0)

/-- R130 `InvalidRead(off)`: one event, all 64 bits zero. -/
def invalidRead (off : Word) (s : State) : Result := readDone 0 (s.report .invalidRead off 0)

/-- R130 `InvalidWrite(off, wdata)`: one event, the write is dropped. -/
def invalidWrite (off wdata : Word) (s : State) : Result := writeDone (s.report .invalidWrite off wdata)

end Sys2Proof.Machine
end

