-- ==== Sys2Proof/Machine/Bus.lean ====
section
/-! DEFINITION. The bus side: the masters' queues and the arbiter (R49 to R53), the address mapping (R41, R43), the adapter of a
32-bit master (R45), and construction (R170 to R174). -/

namespace Sys2Proof.Machine

/-- The masters that have a transaction outstanding, by rising index from `k`. -/
def requestingFrom (k : Nat) (ms : List (List Request)) : List Nat :=
  match ms with
  | [] => []
  | [] :: rest => requestingFrom (k + 1) rest
  | (_ :: _) :: rest => k :: requestingFrom (k + 1) rest

/-- The masters that have a transaction outstanding. -/
def State.requesting (s : State) : List Nat := requestingFrom 0 s.masters

/-- R51: the arbiter's next pick, from `choices`, else the free value. -/
def State.pick (s : State) : Nat := s.choices.headD (Config.arbiterChoice s.served.length)

/-- R51, R154: the master served next: any one of those that have a transaction outstanding, as the pick says
(modulo their number, so that every pick names one of them and each can be named). -/
def State.grantedMaster (s : State) : Option Nat :=
  s.requesting[s.pick % s.requesting.length]?

/-- The requests master `m` still has to have served. -/
def State.queue (s : State) (m : Nat) : List Request := s.masters.getD m []

/-- The transaction served next: the granted master's outstanding one (R53: each master's in the order it issues
them). None when no master has one. -/
def State.nextTransaction (s : State) : Option (Nat × Request) :=
  match s.grantedMaster with
  | none => none
  | some m => (s.queue m).head?.map (fun r => (m, r))

/-- The transaction of master `m` completes (R46): the master gets `rdata` and may issue its next one, and the
arbiter's pick is used up. -/
def State.complete (s : State) (m : Nat) (r : Request) : State :=
  { s with
    masters := s.masters.modify m List.tail
    choices := s.choices.tail
    served := s.served ++ [⟨m, r, s.rdata⟩] }

/-- `masters` with one more request at the end of queue `m`; masters that do not exist yet come to be. -/
def enqueue (ms : List (List Request)) (m : Nat) (r : Request) : List (List Request) :=
  match ms, m with
  | [], 0 => [[r]]
  | [], m + 1 => [] :: enqueue [] m r
  | q :: rest, 0 => (q ++ [r]) :: rest
  | q :: rest, m + 1 => q :: enqueue rest m r

/-- An input of the running block (R189): master `m` issues a request. -/
def State.issue (s : State) (m : Nat) (r : Request) : State :=
  { s with masters := enqueue s.masters m r }

/-- R41 (D3): `off = addr - baseAddress`; the bus presents to the block only addresses at or above the base. -/
def offsetOf (cfg : Configuration) (addr : Word) : Option Word :=
  if cfg.baseAddress.toNat ≤ addr.toNat then some (addr - cfg.baseAddress) else none

/-- R41, 00_scope.md section 6 (MemRead, MemWrite): master `m` issues an access to a bus address. None: the
address lies below the base and the access is not presented to the block. -/
def State.issueAt (s : State) (m : Nat) (we : Bool) (addr wdata : Word) : Option State :=
  (offsetOf s.cfg addr).map (fun off => s.issue m ⟨we, off, wdata⟩)

/-- R43 (D4): the byte a master sees at `addr + j` of an 8-byte transfer, `bits 8j+7 : 8j`. -/
def busByte (v : Word) (j : Nat) : BitVec 8 := v.extractLsb' (8 * j) 8

/-- R43 (D4): the 64-bit value of an 8-byte transfer, from the byte at the lowest address on. -/
def wordOfBytes (b0 b1 b2 b3 b4 b5 b6 b7 : BitVec 8) : Word :=
  b7 ++ b6 ++ b5 ++ b4 ++ b3 ++ b2 ++ b1 ++ b0

/-- R45 (D5): a 32-bit master's write reaches the block zero-extended. -/
def write32 (off : Word) (v : BitVec 32) : Request := .write off (zext32 v)

/-- R45 (D5): a 32-bit master takes the low bits of `rdata`. -/
def read32 (rdata : Word) : BitVec 32 := lowHalf rdata

/-- R148, R171: the configuration errors, "fatal, surfaces at construction time only". The first three are the
source's, the other four the spec's preconditions (D3, D13, D19). -/
inductive ConfigError where
  | tooManyHarts
  | misalignedBase
  | alreadyClaimed
  | noHarts
  | hartIdWrap
  | windowWrap
  | wiredHartAbsent
  deriving DecidableEq, Repr

/-- R170, R171, R174: `create`. `registry` lists the harts the injected HartRegistry knows, `claimed` the harts whose
user-mode software-interrupt source another device has claimed. The order of the checks is the model's (log entry
17, DESIGN CHOICE); a controller exists exactly when all of them pass. -/
def create (baseAddress : BitVec 64) (hartIdBase : HartId) (numHarts : BitVec 32)
    (registry claimed : List HartId) : Except ConfigError State :=
  let cfg : Configuration := ⟨baseAddress, hartIdBase, numHarts, registry⟩
  if !hartsFit cfg then .error .tooManyHarts
  else if !baseAligned cfg then .error .misalignedBase
  else if !hartsSome cfg then .error .noHarts
  else if !hartIdsFit cfg then .error .hartIdWrap
  else if !windowFits cfg then .error .windowWrap
  else if !wiredPresent cfg then .error .wiredHartAbsent
  else if (wiredHarts cfg).any claimed.contains then .error .alreadyClaimed
  else .ok (State.construct cfg)

end Sys2Proof.Machine
end

