-- ==== Sys2Proof/Machine/Active.lean ====
section
/-! DEFINITION. Register 0x18 ACTIVE and its high half 0x1C (43_active.md, R120 to R124). -/

namespace Sys2Proof.Machine

/-- R120 RD.ACTIVE. -/
def execRdActive (i : SlotIx) (s : State) : Result := readDone (zext1 (s.slot i).active) s

/-- R121 WR.ACTIVE: "nonzero value sets `active=true`; zero sets `active=false`; `width` unchanged". -/
def execWrActive (i : SlotIx) (wdata : Word) (s : State) : Result :=
  writeDone (s.setSlot i ((s.slot i).withActive (isNonzero wdata)))

/-- R122 RD.ACTIVE_HI: "high half reads 0"; a valid access. -/
def execRdActiveHi (_i : SlotIx) (s : State) : Result := readDone 0 s

/-- R123 WR.ACTIVE_HI: "high half write is a no-op"; a valid access. -/
def execWrActiveHi (_i : SlotIx) (_wdata : Word) (s : State) : Result := writeDone s

end Sys2Proof.Machine
end

