-- ==== Sys2Proof/Machine/High.lean ====
section
/-! DEFINITION. Register 0x10 HIGH and its high half 0x14 (42_high_pending.md, R110 to R117). -/

namespace Sys2Proof.Machine

/-- R111 RD.HIGH. -/
def execRdHigh (i : SlotIx) (s : State) : Result := readDone (s.slot i).live s

/-- R112 WR.HIGH. -/
def execWrHigh (i : SlotIx) (wdata : Word) (s : State) : Result :=
  writeDone (s.setSlot i ((s.slot i).withLive wdata))

/-- R113 RD.HIGH_HI: valid when Narrow, an invalid access when Wide. -/
def execRdHighHi (i : SlotIx) (s : State) : Result :=
  match (s.slot i).width with
  | .narrow => readDone (zext32 (highHalf (s.slot i).pendingWide)) s
  | .wide => invalidRead (slotOffset i Config.regHighHi) s

/-- R114 WR.HIGH_HI: valid when Wide, an invalid access when Narrow. -/
def execWrHighHi (i : SlotIx) (wdata : Word) (s : State) : Result :=
  match (s.slot i).width with
  | .wide => writeDone (s.setSlot i ((s.slot i).orWideHigh wdata))
  | .narrow => invalidWrite (slotOffset i Config.regHighHi) wdata s

end Sys2Proof.Machine
end

