-- ==== Sys2Proof/Machine/Invalid.lean ====
section
/-! DEFINITION. Invalid accesses: misaligned and out-of-window offsets (44_invalid.md, R130 to R134). -/

namespace Sys2Proof.Machine

/-- R132 RD.MISAL1. -/
def execRdMisal1 (off : Word) (s : State) : Result := invalidRead off s
/-- R132 RD.MISAL2. -/
def execRdMisal2 (off : Word) (s : State) : Result := invalidRead off s
/-- R132 RD.MISAL3. -/
def execRdMisal3 (off : Word) (s : State) : Result := invalidRead off s
/-- R132 WR.MISAL1. -/
def execWrMisal1 (off wdata : Word) (s : State) : Result := invalidWrite off wdata s
/-- R132 WR.MISAL2. -/
def execWrMisal2 (off wdata : Word) (s : State) : Result := invalidWrite off wdata s
/-- R132 WR.MISAL3. -/
def execWrMisal3 (off wdata : Word) (s : State) : Result := invalidWrite off wdata s
/-- R131 RD.OOR. -/
def execRdOor (off : Word) (s : State) : Result := invalidRead off s
/-- R131 WR.OOR. -/
def execWrOor (off wdata : Word) (s : State) : Result := invalidWrite off wdata s

end Sys2Proof.Machine
end

