-- ==== Sys2Proof/Machine/Low.lean ====
section
/-! DEFINITION. Register 0x08 LOW and its high half 0x0C (41_low_config.md, R100 to R105). -/

namespace Sys2Proof.Machine

/-- R100 RD.LOW. -/
def execRdLow (i : SlotIx) (s : State) : Result := readDone (packLow (s.slot i)) s

/-- R101 WR.LOW. -/
def execWrLow (i : SlotIx) (wdata : Word) (s : State) : Result :=
  writeDone (s.setSlot i ((s.slot i).withLow wdata))

/-- R102 RD.LOW_HI: "high half reads 0"; a valid access. -/
def execRdLowHi (_i : SlotIx) (s : State) : Result := readDone 0 s

/-- R103 WR.LOW_HI: "high half write is a no-op"; a valid access. -/
def execWrLowHi (_i : SlotIx) (_wdata : Word) (s : State) : Result := writeDone s

end Sys2Proof.Machine
end

