-- ==== Sys2Proof/Machine/Send.lean ====
section
/-! DEFINITION. Register 0x00 SEND and offset 0x04 (40_send.md, R80 to R90). -/

namespace Sys2Proof.Machine

/-- R89 RD.SEND: "write-only register; reads fall through to "invalid"". -/
def execRdSend (i : SlotIx) (s : State) : Result :=
  invalidRead (slotOffset i Config.regSend) s

/-- A send that is dropped with a diagnostic event: no state change, no edge (R144, R145, R146). -/
def dropSend (kind : DiagKind) (i : SlotIx) (b : Word) (s : State) : Result :=
  writeDone (s.report kind (slotOffset i Config.regSend) b)

/-- R80 WR.SEND: the send algorithm. The conditions are tested in the order of R154, and the edge comes after the
update (R86). -/
def execWrSend (i : SlotIx) (b : Word) (s : State) : Result :=
  let v := s.slot i
  if v.active then
    let h := zextHart v.targetHart
    if hartPresent s.cfg h then
      match lineOf s.cfg h with
      | none => dropSend .targetUnwired i b s
      | some k =>
        if v.inRange b then writeDone ((s.setSlot i (v.setLiveBit b)).raise k)
        else dropSend .sendRange i b s
    else dropSend .targetNotFound i b s
  else writeDone s

/-- R90 RD.RSVD04. -/
def execRdRsvd04 (i : SlotIx) (s : State) : Result :=
  invalidRead (slotOffset i Config.regRsvd04) s

/-- R90 WR.RSVD04. -/
def execWrRsvd04 (i : SlotIx) (wdata : Word) (s : State) : Result :=
  invalidWrite (slotOffset i Config.regRsvd04) wdata s

end Sys2Proof.Machine
end

