-- ==== Sys2Proof/Machine/Dispatch.lean ====
section
/-! DEFINITION. R70: one arm per operation, each one call of its meaning. -/

namespace Sys2Proof.Machine

def exec (i : Instr) (s : State) : Host.Outcome State Fault Refusal :=
  match i with
  | .rdSend i0 => Sys2Proof.Machine.execRdSend i0 s
  | .wrSend i0 w => Sys2Proof.Machine.execWrSend i0 w s
  | .rdRsvd04 i0 => Sys2Proof.Machine.execRdRsvd04 i0 s
  | .wrRsvd04 i0 w => Sys2Proof.Machine.execWrRsvd04 i0 w s
  | .rdLow i0 => Sys2Proof.Machine.execRdLow i0 s
  | .wrLow i0 w => Sys2Proof.Machine.execWrLow i0 w s
  | .rdLowHi i0 => Sys2Proof.Machine.execRdLowHi i0 s
  | .wrLowHi i0 w => Sys2Proof.Machine.execWrLowHi i0 w s
  | .rdHigh i0 => Sys2Proof.Machine.execRdHigh i0 s
  | .wrHigh i0 w => Sys2Proof.Machine.execWrHigh i0 w s
  | .rdHighHi i0 => Sys2Proof.Machine.execRdHighHi i0 s
  | .wrHighHi i0 w => Sys2Proof.Machine.execWrHighHi i0 w s
  | .rdActive i0 => Sys2Proof.Machine.execRdActive i0 s
  | .wrActive i0 w => Sys2Proof.Machine.execWrActive i0 w s
  | .rdActiveHi i0 => Sys2Proof.Machine.execRdActiveHi i0 s
  | .wrActiveHi i0 w => Sys2Proof.Machine.execWrActiveHi i0 w s
  | .rdMisal1 off => Sys2Proof.Machine.execRdMisal1 off s
  | .rdMisal2 off => Sys2Proof.Machine.execRdMisal2 off s
  | .rdMisal3 off => Sys2Proof.Machine.execRdMisal3 off s
  | .wrMisal1 off w => Sys2Proof.Machine.execWrMisal1 off w s
  | .wrMisal2 off w => Sys2Proof.Machine.execWrMisal2 off w s
  | .wrMisal3 off w => Sys2Proof.Machine.execWrMisal3 off w s
  | .rdOor off => Sys2Proof.Machine.execRdOor off s
  | .wrOor off w => Sys2Proof.Machine.execWrOor off w s

end Sys2Proof.Machine
end

