-- ==== Sys2Proof/Machine/Step.lean ====
section
/-! DEFINITION. R14, R51: one step serves one bus transaction, the one the arbiter grants. -/

namespace Sys2Proof.Machine

/-- One step. A configuration that breaks R171 is refused. When no master has a transaction outstanding nothing
happens: the block "has no activity of its own" (R13; log entry 6). Otherwise the granted transaction is decoded
(R70), carried out, and completed. -/
def step (s : State) : Host.Outcome State Fault Refusal :=
  if configValid s.cfg then
    match s.nextTransaction with
    | none => .next s
    | some (m, r) =>
      match exec (decode r) s with
      | .next t => .next (t.complete m r)
      | .fault f => .fault f
      | .refused q => .refused q
  else .refused .invalidConfiguration

/-- `masters` with a request at the head of master 0's queue. -/
def issueFirst (ms : List (List Request)) (r : Request) : List (List Request) :=
  match ms with
  | [] => [[r]]
  | q :: rest => (r :: q) :: rest

/-- The host's probe (log entry 1): master 0's outstanding transaction is the table word's request, and the arbiter
picks master 0 (the first of the requesting masters). -/
def State.withFetchWord (s : State) (nbits w : Nat) : State :=
  { s with
    masters := issueFirst s.masters (requestOfTableWord nbits w)
    choices := 0 :: s.choices }

end Sys2Proof.Machine
end

