-- ==== Sys2Proof/Machine/Pseudo.lean ====
section
/-! DEFINITION. The pseudo-operations of R73, each the sequence of operations it abbreviates (D22: not behavioural). -/

namespace Sys2Proof.Machine

/-- `CONFIG s, hart, mode`: `WR.LOW s, (hart << 16) | mode`. -/
def pseudoConfig (i : SlotIx) (hart : BitVec 16) (mode : BitVec 2) : List Instr :=
  [.wrLow i ((hart ++ (0 : BitVec 14) ++ mode).setWidth 64)]

/-- `ENABLE s`. -/
def pseudoEnable (i : SlotIx) : List Instr := [.wrActive i 1]

/-- `DISABLE s`. -/
def pseudoDisable (i : SlotIx) : List Instr := [.wrActive i 0]

/-- `SEND s, b`. -/
def pseudoSend (i : SlotIx) (b : Word) : List Instr := [.wrSend i b]

/-- `CLEAR s`: overwrites the whole live field. -/
def pseudoClear (i : SlotIx) : List Instr := [.wrHigh i 0]

/-- `WR32.HIGH64 s, lo, hi`: two transactions, not atomic together. -/
def pseudoWr32High64 (i : SlotIx) (lo hi : BitVec 32) : List Instr :=
  [.wrHigh i (zext32 lo), .wrHighHi i (zext32 hi)]

/-- R175: software brings one slot back to its reset value. -/
def pseudoResetSlot (i : SlotIx) : List Instr := [.wrLow i 2, .wrHigh i 0, .wrLow i 0, .wrHigh i 0]

end Sys2Proof.Machine
end

