-- ==== Sys2Proof/Safety.lean ====
section
/-! DEFINITION. What a state must be like for the machine to run (the invariant of the model), and the words the claims about
runs are stated in. -/

namespace Sys2Proof.Machine

/-- R62, R63: does the request select WR.SEND? -/
def isSend (r : Request) : Bool := (decode r).op == .wrSend

/-- R133: the operation is an invalid access by its request alone, or because of the width its slot has. -/
def isInvalid (i : Instr) (s : State) : Bool :=
  match i with
  | .rdSend _ => true
  | .wrSend _ _ => false
  | .rdRsvd04 _ => true
  | .wrRsvd04 _ _ => true
  | .rdLow _ => false
  | .wrLow _ _ => false
  | .rdLowHi _ => false
  | .wrLowHi _ _ => false
  | .rdHigh _ => false
  | .wrHigh _ _ => false
  | .rdHighHi j => (s.slot j).width == .wide
  | .wrHighHi j _ => (s.slot j).width == .narrow
  | .rdActive _ => false
  | .wrActive _ _ => false
  | .rdActiveHi _ => false
  | .wrActiveHi _ _ => false
  | .rdMisal1 _ => true
  | .rdMisal2 _ => true
  | .rdMisal3 _ => true
  | .wrMisal1 _ _ => true
  | .wrMisal2 _ _ => true
  | .wrMisal3 _ _ => true
  | .rdOor _ => true
  | .wrOor _ _ => true

/-- R141 to R146: what an event's payload can be. A read's data are 0; the three kinds a send reports carry the
offset of a SEND register; an invalid access is no access to LOW, HIGH or ACTIVE. -/
def DiagEvent.legal (d : DiagEvent) : Bool :=
  match d.kind with
  | .invalidRead => d.wdata == 0 && !((decode (.read d.off)).op ∈
      [Op.rdLow, .rdLowHi, .rdHigh, .rdActive, .rdActiveHi])
  | .invalidWrite => !((decode (.write d.off d.wdata)).op ∈
      [Op.wrSend, .wrLow, .wrLowHi, .wrHigh, .wrActive, .wrActiveHi])
  | .targetNotFound => isSend (.write d.off d.wdata)
  | .targetUnwired => isSend (.write d.off d.wdata)
  | .sendRange => isSend (.write d.off d.wdata)

/-- How many transactions the masters still have to have served. -/
def State.outstanding (s : State) : Nat := (s.masters.map List.length).sum

/-- The requests of one master in the order they were served. -/
def State.servedOf (s : State) (m : Nat) : List Request :=
  (s.served.filter (fun c => c.master == m)).map Completion.req

/-- The invariant. The configuration is one that exists (R171); the SlotTable is in canonical form; every edge was
emitted on an existing line (R32, R150); every event is one R141 admits; a transaction emits an edge or an event or
neither, never both (R80, R141), and only a served WR.SEND emits an edge (R149). -/
structure State.Inv (s : State) : Prop where
  cfg_valid : configValid s.cfg = true
  slots_wf : SlotTable.wf s.slots = true
  edges_wired : ∀ k ∈ s.edges, k < s.cfg.numHarts.toNat
  diags_legal : ∀ d ∈ s.diags, d.legal = true
  one_output : s.edges.length + s.diags.length ≤ s.served.length
  edges_sent : s.edges.length ≤ s.served.countP (fun c => isSend c.req)

/-- A send on slot `i` passes steps 1 and 2 of R80 with line `k`: the slot is active, its target is present and wired
to line `k` (R81, R82, R150). -/
structure State.CanSend (s : State) (i : SlotIx) (k : Nat) : Prop where
  active : (s.slot i).active = true
  present : hartPresent s.cfg (zextHart (s.slot i).targetHart) = true
  target : (s.slot i).targetHart.toNat = s.cfg.hartIdBase.toNat + k
  wired : k < s.cfg.numHarts.toNat

/-- The frame of a write to slot `i`: every other slot, the configuration, the outputs and the bus side stay as they
were, and the response is 0. -/
structure WritesOnlySlot (i : SlotIx) (s t : State) : Prop where
  others : ∀ j, j ≠ i → t.slot j = s.slot j
  rest : t = { s with slots := t.slots, rdata := 0 }

/-- R60 to R63: the request `(we, 32*i + reg, w)` selects the operation `x i w`, and its key lies in the row with
mask `0xC01F` and match `key`. -/
def Selects (we : Bool) (reg : Nat) (key : Key) (x : SlotIx → Word → Instr) : Prop :=
  ∀ (i : SlotIx) (off w : Word), off.toNat = 32 * i.toNat + reg →
    decode ⟨we, off, w⟩ = x i w ∧ Request.key ⟨we, off, w⟩ &&& 0xC01F = key

/-- Carry out a sequence of operations, served one after the other with nothing in between. -/
def runOps (is : List Instr) (s : State) : Result :=
  match is with
  | [] => .next s
  | i :: rest =>
    match exec i s with
    | .next t => runOps rest t
    | .fault f => .fault f
    | .refused q => .refused q

end Sys2Proof.Machine
end

