-- ==== Sys2Proof/Certificates/Slice0/Obligations.lean ====
section
/-! DEFINITION. The statements for the provers. Each docstring names the rule it formalises, or the log entry (notes/assumptions)
or spec decision it rests on. -/

open Sys2Proof Sys2Proof.Machine

/- ## Encoding and decode -/

/-- Every well-formed operation's request decodes to it (30_encoding.md sections 1 and 2). -/
def Obligations.DecodeOfEncodeIsTheOperation : Prop :=
  ∀ i : Instr, i.wellFormed = true → decode (encode i) = i

/-- Every request decodes to a well-formed operation, whose request is the request itself less the ignored data of a
read (R60): one request, one operation. -/
def Obligations.EncodeOfDecodeIsTheRequest : Prop :=
  ∀ r : Request, (decode r).wellFormed = true ∧ encode (decode r) = r.canonical

/-- The decoder of R70 and the match and mask table of R63 select the same operation, and no other row matches. The
rows' disjointness is the spec's own derivation. -/
def Obligations.DecodeSelectsTheMatchingRow : Prop :=
  ∀ (r : Request) (o : Op), o.accepts r.key = true ↔ (decode r).op = o

/-- "Rows are pairwise disjoint and together cover all 65536 values of `K`" (30_encoding.md section 2, a derivation of
the spec's own). -/
def Obligations.TableRowsPartitionTheKeys : Prop :=
  ∀ k : Key, ∃ o : Op, o.accepts k = true ∧ ∀ o' : Op, o'.accepts k = true → o' = o

/-- R64: the window test comes first. The operation is RD.OOR or WR.OOR whatever the low bits are, and no slot is
read: the answer is the same for every content of the register file. -/
def Obligations.WindowTestComesFirst : Prop :=
  ∀ (r : Request), 0x4000 ≤ r.off.toNat →
    decode r = (if r.we then .wrOor r.off r.wdata else .rdOor r.off) ∧
    ∀ s : State, ∃ t, exec (decode r) s = .next t ∧ t.slots = s.slots ∧
      ∀ table, exec (decode r) { s with slots := table } = .next { t with slots := table }

/-- R61: `slotIndex = offset >> 5`, `reg = offset & 0x1f` inside the window. -/
def Obligations.DecodeSplitsTheOffset : Prop :=
  ∀ off : Word, off.toNat < 0x4000 →
    (slotIndex off).toNat = off.toNat >>> 5 ∧ (slotIndex off).toNat < 512 ∧
    (regSelect off).toNat = off.toNat &&& 0x1f

/-- The decode vectors of 95_test_vectors.md section 2.1, each request written out. -/
def Obligations.VectorRequestsDecode : Prop :=
  decode ⟨false, 0x0000, 0⟩ = .rdSend 0 ∧ decode ⟨true, 0x0000, 5⟩ = .wrSend 0 5 ∧
  decode ⟨true, 0x0004, 5⟩ = .wrRsvd04 0 5 ∧ decode ⟨false, 0x0028, 0⟩ = .rdLow 1 ∧
  decode ⟨false, 0x002C, 0⟩ = .rdLowHi 1 ∧ decode ⟨true, 0x1F50, 0⟩ = .wrHigh 250 0 ∧
  decode ⟨true, 0x1F54, 0⟩ = .wrHighHi 250 0 ∧ decode ⟨false, 0x3FF8, 0⟩ = .rdActive 511 ∧
  decode ⟨true, 0x3FFC, 1⟩ = .wrActiveHi 511 1 ∧ decode ⟨false, 0x3FFF, 0⟩ = .rdMisal3 0x3FFF ∧
  decode ⟨true, 0x0012, 7⟩ = .wrMisal2 0x0012 7 ∧ decode ⟨false, 0x0015, 0⟩ = .rdMisal1 0x0015 ∧
  decode ⟨false, 0x4000, 0⟩ = .rdOor 0x4000 ∧ decode ⟨true, 0x4008, 1⟩ = .wrOor 0x4008 1 ∧
  decode ⟨true, 0x0001000000000008, 1⟩ = .wrOor 0x0001000000000008 1

/- ## Each operation: its encoding, its result, its frame. Each concludes with the answer of `exec`. -/

/-- R89 RD.SEND: 0 and one INVALID_READ, whatever the slot holds. -/
def Obligations.RdSendIsAnInvalidRead : Prop :=
  Selects false 0x00 0x0000 (fun i _ => .rdSend i) ∧
  ∀ (i : SlotIx) (off : Word) (s : State), off.toNat = 32 * i.toNat →
    exec (.rdSend i) s = .next { s with rdata := 0, diags := s.diags ++ [⟨.invalidRead, off, 0⟩] }

/-- RD.RSVD04 and WR.RSVD04 are invalid accesses; that offset 0x04 is no alias of SEND is the spec's decision D7 (log
entry 10). -/
def Obligations.Offset04IsInvalid : Prop :=
  Selects false 0x04 0x0004 (fun i _ => .rdRsvd04 i) ∧ Selects true 0x04 0x8004 .wrRsvd04 ∧
  ∀ (i : SlotIx) (off w : Word) (s : State), off.toNat = 32 * i.toNat + 0x04 →
    exec (.rdRsvd04 i) s = .next { s with rdata := 0, diags := s.diags ++ [⟨.invalidRead, off, 0⟩] } ∧
    exec (.wrRsvd04 i w) s = .next { s with rdata := 0, diags := s.diags ++ [⟨.invalidWrite, off, w⟩] }

/-- R100 RD.LOW: `{targetHart, 14 zero bits, width, active}`, zero-extended, and nothing else changes. -/
def Obligations.RdLowReturnsTargetAndMode : Prop :=
  Selects false 0x08 0x0008 (fun i _ => .rdLow i) ∧
  ∀ (i : SlotIx) (s : State), ∃ v : Word, exec (.rdLow i) s = .next { s with rdata := v } ∧
    v.extractLsb' 32 32 = 0 ∧ v.extractLsb' 16 16 = (s.slot i).targetHart ∧ v.extractLsb' 2 14 = 0 ∧
    (v.getLsbD 1 = true ↔ (s.slot i).width = .wide) ∧ v.getLsbD 0 = (s.slot i).active

/-- WR.LOW overwrites `targetHart`, `width` and `active` together and nothing else. That `wdata[63:32]` is
discarded is the spec's decision D11 (log entry 12). -/
def Obligations.WrLowOverwritesTargetAndMode : Prop :=
  Selects true 0x08 0x8008 .wrLow ∧
  ∀ (i : SlotIx) (w : Word) (s : State), ∃ t, exec (.wrLow i w) s = .next t ∧ WritesOnlySlot i s t ∧
    (t.slot i).targetHart = w.extractLsb' 16 16 ∧
    ((t.slot i).width = .wide ↔ w.getLsbD 1 = true) ∧ (t.slot i).active = w.getLsbD 0 ∧
    (t.slot i).pendingNarrow = (s.slot i).pendingNarrow ∧ (t.slot i).pendingWide = (s.slot i).pendingWide

/-- R102, R103, R122, R123: the high halves of LOW and ACTIVE read 0, ignore writes, and report nothing. -/
def Obligations.HighHalvesReadZeroAndIgnoreWrites : Prop :=
  Selects false 0x0C 0x000C (fun i _ => .rdLowHi i) ∧ Selects true 0x0C 0x800C .wrLowHi ∧
  Selects false 0x1C 0x001C (fun i _ => .rdActiveHi i) ∧ Selects true 0x1C 0x801C .wrActiveHi ∧
  ∀ (i : SlotIx) (w : Word) (s : State),
    exec (.rdLowHi i) s = .next { s with rdata := 0 } ∧ exec (.wrLowHi i w) s = .next { s with rdata := 0 } ∧
    exec (.rdActiveHi i) s = .next { s with rdata := 0 } ∧ exec (.wrActiveHi i w) s = .next { s with rdata := 0 }

/-- R111 RD.HIGH (with the selector of R110): the live pending field, zero-extended when Narrow; nothing is cleared. -/
def Obligations.RdHighReturnsTheLiveField : Prop :=
  Selects false 0x10 0x0010 (fun i _ => .rdHigh i) ∧
  ∀ (i : SlotIx) (s : State), ∃ v : Word, exec (.rdHigh i) s = .next { s with rdata := v } ∧
    ((s.slot i).width = .wide → v = (s.slot i).pendingWide) ∧
    ((s.slot i).width = .narrow → v.extractLsb' 0 32 = (s.slot i).pendingNarrow ∧ v.extractLsb' 32 32 = 0)

/-- WR.HIGH overwrites the live pending field whole and nothing else; no edge. That all 64 bits are stored when Wide
is the spec's decision D10 (log entry 12). -/
def Obligations.WrHighOverwritesTheLiveField : Prop :=
  Selects true 0x10 0x8010 .wrHigh ∧
  ∀ (i : SlotIx) (w : Word) (s : State), ∃ t, exec (.wrHigh i w) s = .next t ∧ WritesOnlySlot i s t ∧
    ((s.slot i).width = .wide → t.slot i = { s.slot i with pendingWide := w }) ∧
    ((s.slot i).width = .narrow → t.slot i = { s.slot i with pendingNarrow := w.extractLsb' 0 32 })

/-- RD.HIGH_HI: bits 63:32 of the Wide field in `rdata[31:0]` when Narrow, an invalid read when Wide. The placement
and the kept asymmetry are the spec's decisions D8 and D9 (log entry 11). -/
def Obligations.RdHighHiIsValidOnlyWhenNarrow : Prop :=
  Selects false 0x14 0x0014 (fun i _ => .rdHighHi i) ∧
  ∀ (i : SlotIx) (off : Word) (s : State), off.toNat = 32 * i.toNat + 0x14 →
    ((s.slot i).width = .narrow → ∃ v : Word, exec (.rdHighHi i) s = .next { s with rdata := v } ∧
      v.extractLsb' 0 32 = (s.slot i).pendingWide.extractLsb' 32 32 ∧ v.extractLsb' 32 32 = 0) ∧
    ((s.slot i).width = .wide →
      exec (.rdHighHi i) s = .next { s with rdata := 0, diags := s.diags ++ [⟨.invalidRead, off, 0⟩] })

/-- R114 WR.HIGH_HI: when Wide, `wdata[31:0]` is or-ed into bits 63:32 of the Wide field, its bits 31:0 keep their
value; an invalid write when Narrow. -/
def Obligations.WrHighHiIsValidOnlyWhenWide : Prop :=
  Selects true 0x14 0x8014 .wrHighHi ∧
  ∀ (i : SlotIx) (off w : Word) (s : State), off.toNat = 32 * i.toNat + 0x14 →
    ((s.slot i).width = .wide → ∃ t, exec (.wrHighHi i w) s = .next t ∧ WritesOnlySlot i s t ∧
      t.slot i = { s.slot i with pendingWide := (t.slot i).pendingWide } ∧
      (t.slot i).pendingWide.extractLsb' 32 32 =
        (s.slot i).pendingWide.extractLsb' 32 32 ||| w.extractLsb' 0 32 ∧
      (t.slot i).pendingWide.extractLsb' 0 32 = (s.slot i).pendingWide.extractLsb' 0 32) ∧
    ((s.slot i).width = .narrow →
      exec (.wrHighHi i w) s = .next { s with rdata := 0, diags := s.diags ++ [⟨.invalidWrite, off, w⟩] })

/-- R120 RD.ACTIVE: `active` as 0 or 1; `width` is not shown. -/
def Obligations.RdActiveReturnsActive : Prop :=
  Selects false 0x18 0x0018 (fun i _ => .rdActive i) ∧
  ∀ (i : SlotIx) (s : State), ∃ v : Word, exec (.rdActive i) s = .next { s with rdata := v } ∧
    v.extractLsb' 1 63 = 0 ∧ v.getLsbD 0 = (s.slot i).active

/-- WR.ACTIVE writes `active` and nothing else: any nonzero datum enables. That all 64 bits are tested is the spec's
decision D11 (log entry 12). -/
def Obligations.WrActiveWritesOnlyActive : Prop :=
  Selects true 0x18 0x8018 .wrActive ∧
  ∀ (i : SlotIx) (w : Word) (s : State), ∃ t, exec (.wrActive i w) s = .next t ∧ WritesOnlySlot i s t ∧
    t.slot i = { s.slot i with active := (t.slot i).active } ∧ ((t.slot i).active = true ↔ w.toNat ≠ 0)

/-- R132: an access with `off[1:0] = n`, n = 1, 2, 3, in the window is an invalid access; it is not rounded down. -/
def Obligations.MisalignedAccessIsInvalid : Prop :=
  ∀ (off w : Word) (s : State), off.toNat < 0x4000 →
    (off.toNat % 4 = 1 → decode ⟨false, off, w⟩ = .rdMisal1 off ∧ decode ⟨true, off, w⟩ = .wrMisal1 off w ∧
      Request.key ⟨false, off, w⟩ &&& 0xC003 = 0x0001 ∧ Request.key ⟨true, off, w⟩ &&& 0xC003 = 0x8001 ∧
      exec (.rdMisal1 off) s = .next { s with rdata := 0, diags := s.diags ++ [⟨.invalidRead, off, 0⟩] } ∧
      exec (.wrMisal1 off w) s = .next { s with rdata := 0, diags := s.diags ++ [⟨.invalidWrite, off, w⟩] }) ∧
    (off.toNat % 4 = 2 → decode ⟨false, off, w⟩ = .rdMisal2 off ∧ decode ⟨true, off, w⟩ = .wrMisal2 off w ∧
      Request.key ⟨false, off, w⟩ &&& 0xC003 = 0x0002 ∧ Request.key ⟨true, off, w⟩ &&& 0xC003 = 0x8002 ∧
      exec (.rdMisal2 off) s = .next { s with rdata := 0, diags := s.diags ++ [⟨.invalidRead, off, 0⟩] } ∧
      exec (.wrMisal2 off w) s = .next { s with rdata := 0, diags := s.diags ++ [⟨.invalidWrite, off, w⟩] }) ∧
    (off.toNat % 4 = 3 → decode ⟨false, off, w⟩ = .rdMisal3 off ∧ decode ⟨true, off, w⟩ = .wrMisal3 off w ∧
      Request.key ⟨false, off, w⟩ &&& 0xC003 = 0x0003 ∧ Request.key ⟨true, off, w⟩ &&& 0xC003 = 0x8003 ∧
      exec (.rdMisal3 off) s = .next { s with rdata := 0, diags := s.diags ++ [⟨.invalidRead, off, 0⟩] } ∧
      exec (.wrMisal3 off w) s = .next { s with rdata := 0, diags := s.diags ++ [⟨.invalidWrite, off, w⟩] })

/-- R131: an access at or above `0x4000` reads 0, never mutates a slot, and emits one event; the offset is not reduced
modulo the window. -/
def Obligations.OutOfWindowAccessIsInvalid : Prop :=
  ∀ (off w : Word) (s : State), 0x4000 ≤ off.toNat →
    decode ⟨false, off, w⟩ = .rdOor off ∧ decode ⟨true, off, w⟩ = .wrOor off w ∧
    Request.key ⟨false, off, w⟩ &&& 0xC000 = 0x4000 ∧ Request.key ⟨true, off, w⟩ &&& 0xC000 = 0xC000 ∧
    exec (.rdOor off) s = .next { s with rdata := 0, diags := s.diags ++ [⟨.invalidRead, off, 0⟩] } ∧
    exec (.wrOor off w) s = .next { s with rdata := 0, diags := s.diags ++ [⟨.invalidWrite, off, w⟩] }

/- ## The send -/

/-- R81: a send to an inactive slot is a no-op: no state change, no edge, no event, whatever the target and the bit
position are. -/
def Obligations.SendToInactiveSlotIsNoOp : Prop :=
  ∀ (i : SlotIx) (b : Word) (s : State), (s.slot i).active = false →
    exec (.wrSend i b) s = .next { s with rdata := 0 }

/-- R144: an active slot whose target the HartRegistry does not know: one event, no state change, no edge. -/
def Obligations.SendToAbsentHartIsReported : Prop :=
  ∀ (i : SlotIx) (off b : Word) (s : State), off.toNat = 32 * i.toNat →
    (s.slot i).active = true → hartPresent s.cfg ((s.slot i).targetHart.setWidth 32) = false →
    exec (.wrSend i b) s = .next { s with rdata := 0, diags := s.diags ++ [⟨.targetNotFound, off, b⟩] }

/-- A target that is present but has no line of this controller: one event, no state change, no edge. This is the
spec's decision D13 (log entry 14). -/
def Obligations.SendToUnwiredHartIsReported : Prop :=
  ∀ (i : SlotIx) (off b : Word) (s : State), off.toNat = 32 * i.toNat →
    (s.slot i).active = true → hartPresent s.cfg ((s.slot i).targetHart.setWidth 32) = true →
    ((s.slot i).targetHart.toNat < s.cfg.hartIdBase.toNat ∨
      s.cfg.hartIdBase.toNat + s.cfg.numHarts.toNat ≤ (s.slot i).targetHart.toNat) →
    exec (.wrSend i b) s = .next { s with rdata := 0, diags := s.diags ++ [⟨.targetUnwired, off, b⟩] }

/-- A bit position outside the live field is rejected after the other tests: one event, no state change, no edge; the
position is neither masked nor truncated. This is the spec's decision D12 (log entry 13). -/
def Obligations.SendOutOfRangeIsRejected : Prop :=
  ∀ (i : SlotIx) (off b : Word) (k : Nat) (s : State), off.toNat = 32 * i.toNat → s.CanSend i k →
    ((s.slot i).width = .narrow ∧ 32 ≤ b.toNat ∨ (s.slot i).width = .wide ∧ 64 ≤ b.toNat) →
    exec (.wrSend i b) s = .next { s with rdata := 0, diags := s.diags ++ [⟨.sendRange, off, b⟩] }

/-- An in-range send on an active slot with a present, wired target sets exactly bit `b` of the live field, then emits
one edge on line `targetHart - hartIdBase`, and changes nothing else (40_send.md section 1; the wired and the range
test are the spec's decisions D13 and D12). -/
def Obligations.SendSetsOneBitAndRaisesOneEdge : Prop :=
  Selects true 0x00 0x8000 .wrSend ∧
  ∀ (i : SlotIx) (b : Word) (k : Nat) (s : State), s.CanSend i k →
    ((s.slot i).width = .narrow ∧ b.toNat < 32 ∨ (s.slot i).width = .wide ∧ b.toNat < 64) →
    ∃ t, exec (.wrSend i b) s = .next t ∧
      (∀ j, j ≠ i → t.slot j = s.slot j) ∧
      t = { s with slots := t.slots, rdata := 0, edges := s.edges ++ [k] } ∧
      ((s.slot i).width = .narrow →
        t.slot i = { s.slot i with pendingNarrow := (t.slot i).pendingNarrow } ∧
        ∀ p, p < 32 → (t.slot i).pendingNarrow.getLsbD p =
          ((s.slot i).pendingNarrow.getLsbD p || decide (p = b.toNat))) ∧
      ((s.slot i).width = .wide →
        t.slot i = { s.slot i with pendingWide := (t.slot i).pendingWide } ∧
        ∀ p, p < 64 → (t.slot i).pendingWide.getLsbD p =
          ((s.slot i).pendingWide.getLsbD p || decide (p = b.toNat)))

/-- R88: successful sends on one slot, whatever bits they name and however often: the live field gains exactly the
bits named, and the line gets one edge for each. -/
def Obligations.SendsCollectBitsAndEachRaises : Prop :=
  ∀ (i : SlotIx) (k : Nat) (bs : List Word) (s : State), s.CanSend i k →
    (∀ b ∈ bs, b.toNat < (s.slot i).liveBits) →
    ∃ t, runOps (bs.map (Instr.wrSend i)) s = .next t ∧
      (∀ p, (t.slot i).live.getLsbD p = true ↔
        (s.slot i).live.getLsbD p = true ∨ ∃ b ∈ bs, b.toNat = p) ∧
      t.edges = s.edges ++ List.replicate bs.length k ∧ t.diags = s.diags

/-- In a configuration that exists, a target passes step 2 exactly when it is wired (40_send.md section 1, the spec's
own derivation from the precondition that every wired hart is present, D13). -/
def Obligations.ValidConfigurationResolvesExactlyWiredHarts : Prop :=
  ∀ (cfg : Configuration) (h : BitVec 16), configValid cfg = true →
    ((∃ k, hartPresent cfg (zextHart h) = true ∧ lineOf cfg (zextHart h) = some k) ↔
      cfg.hartIdBase.toNat ≤ h.toNat ∧ h.toNat < cfg.hartIdBase.toNat + cfg.numHarts.toNat)

/-- R150, R173: line `k` is wired to hart `hartIdBase + k`, and that hart's line is line `k`. -/
def Obligations.LinesAreWiredToConsecutiveHarts : Prop :=
  ∀ (cfg : Configuration) (k : Nat), configValid cfg = true → k < cfg.numHarts.toNat →
    (wiredHart cfg k).toNat = cfg.hartIdBase.toNat + k ∧ lineOf cfg (wiredHart cfg k) = some k

/- ## Laws of the registers -/

/-- Writing LOW and reading it back (41_low_config.md section 3): `wdata & 0xFFFF_0003`, and for `(H, M)` the value
`(H << 16) | M`. The general form is the spec's own derivation. -/
def Obligations.LowRoundTrips : Prop :=
  (∀ (i : SlotIx) (w : Word) (s : State), ∃ t, runOps [.wrLow i w, .rdLow i] s = .next t ∧
    t.rdata = w &&& 0x00000000FFFF0003) ∧
  (∀ (i : SlotIx) (h : BitVec 16) (m : BitVec 2) (s : State), ∃ t,
    runOps (pseudoConfig i h m ++ [.rdLow i]) s = .next t ∧ t.rdata.toNat = h.toNat * 2 ^ 16 + m.toNat)

/-- The round trips of HIGH (42_high_pending.md section 6): Wide through the high half, `X | (Y << 32)`, and Narrow,
`X & 0xFFFF_FFFF` (the spec's own derivations). -/
def Obligations.HighRoundTrips : Prop :=
  (∀ (i : SlotIx) (x : Word) (y : BitVec 32) (s : State), (s.slot i).width = .wide →
    ∃ t, runOps [.wrHigh i x, .wrHighHi i (y.setWidth 64), .rdHigh i] s = .next t ∧
      t.rdata = x ||| (y.setWidth 64 <<< 32)) ∧
  (∀ (i : SlotIx) (x : Word) (s : State), (s.slot i).width = .narrow →
    ∃ t, runOps [.wrHigh i x, .rdHigh i] s = .next t ∧ t.rdata = x &&& 0x00000000FFFFFFFF)

/-- "a prior width setting is preserved across any number of ACTIVE writes" (43_active.md section 3), and so are the
target and both pending fields; `active` is what the last write made it. -/
def Obligations.ActiveWritesPreserveTheRest : Prop :=
  ∀ (i : SlotIx) (ws : List Word) (w : Word) (s : State), ∃ t,
    runOps ((ws ++ [w]).map (Instr.wrActive i)) s = .next t ∧
    t.slot i = { s.slot i with active := decide (w.toNat ≠ 0) } ∧ ∀ j, j ≠ i → t.slot j = s.slot j

/-- LOW and ACTIVE share the active bit (41_low_config.md section 3). Bit 0 written through LOW is the bit RD.ACTIVE
returns, and a WR.ACTIVE makes bit 0 of what RD.LOW returns whether its datum is nonzero, which is the bit RD.ACTIVE
returns too, and changes nothing else of it. That all 64 bits are tested is the spec's decision D11 (log entry 12). -/
def Obligations.LowAndActiveShareTheActiveBit : Prop :=
  (∀ (i : SlotIx) (w : Word) (s : State), ∃ t, runOps [.wrLow i w, .rdActive i] s = .next t ∧
    t.rdata.toNat = (w.getLsbD 0).toNat) ∧
  (∀ (i : SlotIx) (w : Word) (s : State), ∃ t u v, exec (.rdLow i) s = .next t ∧
    runOps [.wrActive i w, .rdLow i] s = .next u ∧ exec (.rdActive i) u = .next v ∧
    u.rdata.getLsbD 0 = decide (w.toNat ≠ 0) ∧ v.rdata.getLsbD 0 = u.rdata.getLsbD 0 ∧
    ∀ p, 0 < p → u.rdata.getLsbD p = t.rdata.getLsbD p)

/-- Changing `width` copies, clears and converts nothing (10_state.md section 3); after any WR.LOW, RD.HIGH shows the field the new
width selects, with what it held before. -/
def Obligations.SwitchingWidthKeepsBothFields : Prop :=
  ∀ (i : SlotIx) (w : Word) (s : State), ∃ t u, exec (.wrLow i w) s = .next t ∧ exec (.rdHigh i) t = .next u ∧
    (t.slot i).pendingNarrow = (s.slot i).pendingNarrow ∧ (t.slot i).pendingWide = (s.slot i).pendingWide ∧
    u.rdata = (if w.getLsbD 1 then (s.slot i).pendingWide else (s.slot i).pendingNarrow.setWidth 64)

/-- Software brings a slot back to its reset value (70_reset_and_hazards.md section 1, the spec's own derivation). -/
def Obligations.SoftwareResetsOneSlot : Prop :=
  ∀ (i : SlotIx) (s : State), ∃ t,
    runOps [.wrLow i 2, .wrHigh i 0, .wrLow i 0, .wrHigh i 0] s = .next t ∧
    t.slot i = ⟨false, .narrow, 0, 0, 0⟩ ∧ (∀ j, j ≠ i → t.slot j = s.slot j) ∧
    t.edges = s.edges ∧ t.diags = s.diags

/-- The clear races with a send (70_reset_and_hazards.md, the hazard of clearing): a send served between the handler's
read and its clear loses its bit and still raises its edge. -/
def Obligations.ClearLosesASendServedInBetween : Prop :=
  ∀ (i : SlotIx) (b : Word) (k : Nat) (s : State), s.CanSend i k → b.toNat < (s.slot i).liveBits →
    ∃ t u v, exec (.rdHigh i) s = .next t ∧ runOps [.wrSend i b, .wrHigh i 0] t = .next u ∧
      exec (.rdHigh i) u = .next v ∧ t.rdata = (s.slot i).live ∧ v.rdata = 0 ∧ u.edges = s.edges ++ [k]

/-- After a disable no send on the slot sets a bit or raises a line, and pending bits stay (70_reset_and_hazards.md,
the hazard of disabling). -/
def Obligations.DisabledSlotIgnoresSends : Prop :=
  ∀ (i : SlotIx) (bs : List Word) (s : State), ∃ t,
    runOps (.wrActive i 0 :: bs.map (Instr.wrSend i)) s = .next t ∧
    t.slot i = { s.slot i with active := false } ∧ (∀ j, j ≠ i → t.slot j = s.slot j) ∧
    t.edges = s.edges ∧ t.diags = s.diags

/- ## Whole-machine rules -/

/-- "Every transaction completes, with a success response, in one step" (20_memory.md section 4): every request is
served, from every state. And a step of a constructed controller never stops, be it idle, which is the model's choice
(log entry 6). -/
def Obligations.EveryTransactionCompletes : Prop :=
  (∀ (r : Request) (s : State), ∃ t, exec (decode r) s = .next t) ∧
  ∀ s : State, configValid s.cfg = true → ∃ t, step s = .next t

/-- R47: no read changes a slot or raises a line; a valid read emits nothing, an invalid one exactly one event; and
the read repeated returns the same value. -/
def Obligations.ReadsChangeNoSlot : Prop :=
  ∀ (i : Instr) (s : State), i.op.isWrite = false → ∃ t u,
    exec i s = .next t ∧ t.slots = s.slots ∧ t.edges = s.edges ∧
    t.diags = s.diags ++ (if isInvalid i s then [⟨.invalidRead, (encode i).off, 0⟩] else []) ∧
    exec i t = .next u ∧ u.rdata = t.rdata

/-- Every write done twice in a row leaves the register file as once (20_memory.md section 5); WR.SEND too, on the
register file. -/
def Obligations.WritesAreIdempotentOnTheSlots : Prop :=
  ∀ (i : Instr) (s : State), i.op.isWrite = true → ∃ t u,
    exec i s = .next t ∧ exec i t = .next u ∧ (∀ j, u.slot j = t.slot j) ∧ t.rdata = 0 ∧ u.rdata = 0

/-- The frame of every operation: only the addressed slot changes, never the configuration, the bus side or what was
already emitted (10_state.md R36, 20_memory.md section 5). -/
def Obligations.OnlyTheAddressedSlotChanges : Prop :=
  ∀ (i : Instr) (s : State), ∃ t, exec i s = .next t ∧
    (∀ j, i.slot? ≠ some j → t.slot j = s.slot j) ∧
    t.cfg = s.cfg ∧ t.masters = s.masters ∧ t.choices = s.choices ∧ t.served = s.served ∧
    s.edges <+: t.edges ∧ s.diags <+: t.diags ∧
    (t.edges.length + t.diags.length ≤ s.edges.length + s.diags.length + 1)

/-- R133: the complete list of invalid accesses, in terms of the request and the addressed slot's width. Nothing else
is one: any other access, a WR.SEND to an active slot apart, emits no event. -/
def Obligations.InvalidAccessesAreExactlyTheList : Prop :=
  ∀ (r : Request) (s : State),
    (isInvalid (decode r) s = true ↔
      (0x4000 ≤ r.off.toNat ∨
       r.off.toNat < 0x4000 ∧ r.off.toNat % 4 ≠ 0 ∨
       r.off.toNat < 0x4000 ∧ r.off.toNat % 32 = 0x04 ∨
       r.off.toNat < 0x4000 ∧ r.we = false ∧ r.off.toNat % 32 = 0x00 ∨
       r.off.toNat < 0x4000 ∧ r.we = false ∧ r.off.toNat % 32 = 0x14 ∧ (s.slot (slotIndex r.off)).width = .wide ∨
       r.off.toNat < 0x4000 ∧ r.we = true ∧ r.off.toNat % 32 = 0x14 ∧
         (s.slot (slotIndex r.off)).width = .narrow)) ∧
    (isInvalid (decode r) s = false → (isSend r = true → (s.slot (slotIndex r.off)).active = false) →
      ∃ t, exec (decode r) s = .next t ∧ t.diags = s.diags)

/-- R130, R142, R143: every invalid access, and no other transaction, emits INVALID_READ or INVALID_WRITE, exactly
once, with the offset as presented; a read returns 0, a write is dropped, no edge. Any other event comes from
WR.SEND. -/
def Obligations.InvalidAccessesAloneEmitInvalidEvents : Prop :=
  ∀ (r : Request) (s : State), ∃ t, exec (decode r) s = .next t ∧
    (isInvalid (decode r) s = true →
      t = { s with
        rdata := 0
        diags := s.diags ++ [if r.we then ⟨.invalidWrite, r.off, r.wdata⟩ else ⟨.invalidRead, r.off, 0⟩] }) ∧
    (isInvalid (decode r) s = false → ∃ ds, t.diags = s.diags ++ ds ∧ ds.length ≤ 1 ∧
      (∀ d ∈ ds, (d.kind = .targetNotFound ∨ d.kind = .targetUnwired ∨ d.kind = .sendRange) ∧ isSend r = true))

/-- A stream of invalid accesses has no cumulative effect (44_invalid.md section 5): the register file and the lines
are as before, each access has emitted one event. -/
def Obligations.InvalidStreamHasNoEffect : Prop :=
  ∀ (is : List Instr) (s : State), (∀ i ∈ is, isInvalid i s = true) →
    ∃ t, runOps is s = .next t ∧ t.slots = s.slots ∧ t.edges = s.edges ∧
      t.diags.length = s.diags.length + is.length

/-- Nothing but a WR.SEND that completes emits an edge, and it emits one on the line of its target
(60_exceptions.md section 2); construction emits none. That a send completes only with a wired target and an in-range bit
position is the spec's decisions D13 and D12 (log entries 14 and 13); a step without a transaction, which emits none, is
the model's choice (log entry 6). -/
def Obligations.OnlyCompletedSendsRaiseEdges : Prop :=
  (∀ (i : Instr) (s : State), ∃ t, exec i s = .next t ∧
    (t.edges = s.edges ∨ ∃ j b k, i = .wrSend j b ∧ s.CanSend j k ∧ b.toNat < (s.slot j).liveBits ∧
      t.edges = s.edges ++ [k])) ∧
  (∀ (j : SlotIx) (b : Word) (k : Nat) (s : State), s.CanSend j k → b.toNat < (s.slot j).liveBits →
    ∃ t, exec (.wrSend j b) s = .next t ∧ t.edges = s.edges ++ [k]) ∧
  (∀ cfg, (State.construct cfg).edges = []) ∧
  ∀ s t : State, step s = .next t → s.nextTransaction = none → t.edges = s.edges

/-- Which operations set and which clear a pending bit (42_high_pending.md section 6, the spec's own derivation): a
Narrow bit is set only by WR.HIGH or a send on a Narrow slot, a Wide bit also by WR.HIGH_HI in the upper half; only
WR.HIGH clears one, and only in the live field. -/
def Obligations.PendingBitsChangeOnlyByTheirRules : Prop :=
  ∀ (i : Instr) (j : SlotIx) (p : Nat) (s : State), ∃ t, exec i s = .next t ∧
    ((s.slot j).pendingNarrow.getLsbD p = false → (t.slot j).pendingNarrow.getLsbD p = true →
      (s.slot j).width = .narrow ∧ ((∃ w, i = .wrHigh j w ∧ w.getLsbD p = true) ∨
        ∃ b k, i = .wrSend j b ∧ b.toNat = p ∧ s.CanSend j k)) ∧
    ((s.slot j).pendingNarrow.getLsbD p = true → (t.slot j).pendingNarrow.getLsbD p = false →
      (s.slot j).width = .narrow ∧ ∃ w, i = .wrHigh j w ∧ w.getLsbD p = false) ∧
    ((s.slot j).pendingWide.getLsbD p = false → (t.slot j).pendingWide.getLsbD p = true →
      (s.slot j).width = .wide ∧ ((∃ w, i = .wrHigh j w ∧ w.getLsbD p = true) ∨
        (∃ w, i = .wrHighHi j w ∧ 32 ≤ p ∧ w.getLsbD (p - 32) = true) ∨
        ∃ b k, i = .wrSend j b ∧ b.toNat = p ∧ s.CanSend j k)) ∧
    ((s.slot j).pendingWide.getLsbD p = true → (t.slot j).pendingWide.getLsbD p = false →
      (s.slot j).width = .wide ∧ ∃ w, i = .wrHigh j w ∧ w.getLsbD p = false)

/-- The pending bit is visible when its edge has been emitted (20_memory.md section 7; one atomic step is the spec's
decision D14, log entry 5): in the state after a transaction that raised a line, RD.HIGH of the slot sent to shows
the bit. -/
def Obligations.RaisedEdgeFindsItsBitSet : Prop :=
  ∀ (i : Instr) (s t : State), exec i s = .next t → t.edges ≠ s.edges →
    ∃ j b u, i = .wrSend j b ∧ exec (.rdHigh j) t = .next u ∧ u.rdata.getLsbD b.toNat = true

/-- Transactions on different slots commute on the register file and on what a read returns; the edges are the same up
to order (20_memory.md section 7, the spec's own derivation). -/
def Obligations.DifferentSlotsCommute : Prop :=
  ∀ (i j : Instr) (a b : SlotIx) (s : State), i.slot? = some a → j.slot? = some b → a ≠ b →
    ∃ si sj sij sji, exec i s = .next si ∧ exec j s = .next sj ∧
      exec j si = .next sij ∧ exec i sj = .next sji ∧
      (∀ k, sij.slot k = sji.slot k) ∧ sij.edges.Perm sji.edges ∧
      sij.rdata = sj.rdata ∧ sji.rdata = si.rdata

/-- No output feeds back (10_state.md section 6; log entries 9 and 15): two states that agree on the configuration and
the register file serve any sequence of operations alike, whatever edges and events were emitted and whatever was
served before. -/
def Obligations.OutputsDoNotFeedBack : Prop :=
  ∀ (is : List Instr) (s s' : State), s.cfg = s'.cfg → s.slots = s'.slots → ∃ t t' es ds,
    runOps is s = .next t ∧ runOps is s' = .next t' ∧ t.slots = t'.slots ∧ (is ≠ [] → t.rdata = t'.rdata) ∧
    t.edges = s.edges ++ es ∧ t'.edges = s'.edges ++ es ∧ t.diags = s.diags ++ ds ∧ t'.diags = s'.diags ++ ds

/-- R12: the configuration is immutable: no operation and no step changes it. -/
def Obligations.ConfigurationNeverChanges : Prop :=
  (∀ (i : Instr) (s t : State), exec i s = .next t → t.cfg = s.cfg) ∧
  ∀ (s t : State), step s = .next t → t.cfg = s.cfg

/- ## Construction -/

/-- The state after construction (10_state.md section 8; lines idle and no event are the spec's decision D18): every
field of every slot is 0, every valid read returns 0 without event, a send does nothing. -/
def Obligations.ConstructionLeavesEverySlotZero : Prop :=
  ∀ (cfg : Configuration) (i : SlotIx) (b : Word),
    (State.construct cfg).slot i = ⟨false, .narrow, 0, 0, 0⟩ ∧
    (State.construct cfg).edges = [] ∧ (State.construct cfg).diags = [] ∧
    (∀ x ∈ [Instr.rdLow i, .rdLowHi i, .rdHigh i, .rdHighHi i, .rdActive i, .rdActiveHi i, .wrSend i b],
      exec x (State.construct cfg) = .next { State.construct cfg with rdata := 0 })

/-- Construction succeeds exactly when every precondition holds and no wired hart is claimed by another device, and
then gives the state above (70_reset_and_hazards.md section 1; four of the preconditions are the spec's decisions D3,
D13, D19). -/
def Obligations.CreateSucceedsExactlyOnValidArguments : Prop :=
  ∀ (base : BitVec 64) (hartIdBase : HartId) (numHarts : BitVec 32) (registry claimed : List HartId),
    ((∃ s, create base hartIdBase numHarts registry claimed = .ok s) ↔
      numHarts.toNat ≤ 512 ∧ base.toNat % 32 = 0 ∧ 1 ≤ numHarts.toNat ∧
      hartIdBase.toNat + numHarts.toNat ≤ 2 ^ 32 ∧ base.toNat + 0x4000 ≤ 2 ^ 64 ∧
      ∀ h : HartId, hartIdBase.toNat ≤ h.toNat → h.toNat < hartIdBase.toNat + numHarts.toNat →
        h ∈ registry ∧ h ∉ claimed) ∧
    ∀ s, create base hartIdBase numHarts registry claimed = .ok s →
      s = State.construct ⟨base, hartIdBase, numHarts, registry⟩ ∧ configValid s.cfg = true

/-- `off = addr - baseAddress`; addresses below the base are not presented (20_memory.md section 1, the spec's decision
D3, log entry 16). An access to a bus address joins the end of its master's queue and no other; the queues are the
model's choice (log entry 4). -/
def Obligations.BusAddressesReachTheBlockAsOffsets : Prop :=
  ∀ (s : State) (m : Nat) (we : Bool) (addr w : Word),
    (addr.toNat < s.cfg.baseAddress.toNat → s.issueAt m we addr w = none) ∧
    (s.cfg.baseAddress.toNat ≤ addr.toNat → ∃ off t, s.issueAt m we addr w = some t ∧
      off.toNat = addr.toNat - s.cfg.baseAddress.toNat ∧ t.queue m = s.queue m ++ [⟨we, off, w⟩] ∧
      (∀ n, n ≠ m → t.queue n = s.queue n) ∧ t = { s with masters := t.masters })

/- ## The step, the arbiter and the masters -/

/-- A step carries out the operation the granted request decodes to and completes the transaction: the request leaves
its master's queue and the arbiter's pick is used up (20_memory.md section 6; the queues and the list of picks are the
model's choice, log entry 4); without a transaction nothing happens (the model's choice, log entry 6); a configuration that breaks a precondition is refused (the refusal is the
spec's decision in 70_reset_and_hazards.md section 1). -/
def Obligations.StepRunsTheDecodedOperation : Prop :=
  (∀ (s t : State) (m : Nat) (r : Request), configValid s.cfg = true → s.nextTransaction = some (m, r) →
    exec (decode r) s = .next t →
    step s = .next { t with
      masters := t.masters.modify m List.tail
      choices := t.choices.tail
      served := t.served ++ [⟨m, r, t.rdata⟩] }) ∧
  (∀ s : State, configValid s.cfg = true → s.nextTransaction = none → step s = .next s) ∧
  (∀ s : State, configValid s.cfg = false → step s = .refused .invalidConfiguration)

/-- Every order is admitted (20_memory.md section 6, the spec's decision D16; log entry 4): whichever master has a
transaction outstanding, some pick of the arbiter serves it next. -/
def Obligations.ArbiterMayServeAnyMaster : Prop :=
  ∀ (s : State) (m : Nat) (r : Request) (rest : List Request), s.queue m = r :: rest →
    ∃ c, ∀ cs, State.nextTransaction { s with choices := c :: cs } = some (m, r)

/-- Each master's transactions are served in the order it issues them (20_memory.md section 7, the spec's own
derivation; the queues are the model's choice, log entry 4), and a step that is not idle serves exactly one
transaction. -/
def Obligations.EachMasterIsServedInItsOwnOrder : Prop :=
  ∀ (s t : State), step s = .next t →
    (∀ m, t.servedOf m ++ t.queue m = s.servedOf m ++ s.queue m) ∧
    (0 < s.outstanding → t.outstanding + 1 = s.outstanding ∧ t.served.length = s.served.length + 1)

/-- Every issued transaction is served (70_reset_and_hazards.md section 4, the spec's decision D24): after as many
steps as there are outstanding transactions, whatever the arbiter picks, none is left. The queues and the picks are the
model's choice (log entry 4). -/
def Obligations.EveryIssuedTransactionIsServed : Prop :=
  ∀ s : State, configValid s.cfg = true → ∃ t : State,
    Sys2Proof.core.run s.outstanding s = .next t ∧ t.outstanding = 0 ∧
    t.served.length = s.served.length + s.outstanding ∧ ∀ m, t.servedOf m = s.servedOf m ++ s.queue m

/-- No update is lost (20_memory.md section 6): when any number of masters have only in-range sends to one slot
outstanding, then in EVERY order the arbiter may serve them the slot ends with exactly the bits of all of them added,
and its line gets one edge for each. The queues and the picks are the model's choice (log entry 4). -/
def Obligations.ConcurrentSendsLoseNoBit : Prop :=
  ∀ (s : State) (i : SlotIx) (k : Nat), configValid s.cfg = true → s.CanSend i k →
    (∀ q ∈ s.masters, ∀ r ∈ q, decode r = .wrSend i r.wdata ∧ r.wdata.toNat < (s.slot i).liveBits) →
    ∃ t : State, Sys2Proof.core.run s.outstanding s = .next t ∧ t.outstanding = 0 ∧
      (∀ p, (t.slot i).live.getLsbD p = true ↔
        (s.slot i).live.getLsbD p = true ∨ ∃ q ∈ s.masters, ∃ r ∈ q, r.wdata.toNat = p) ∧
      t.edges = s.edges ++ List.replicate s.outstanding k ∧ t.diags = s.diags ∧
      (∀ j, j ≠ i → t.slot j = s.slot j)

/-- Every step keeps the invariant: the configuration exists, the register file is in canonical form (the model's
choice of how it is held, log entry 8), edges are on existing lines, events are legal, no transaction emits both an edge and an event, no edge without a send. -/
def Obligations.StepKeepsTheInvariant : Prop :=
  ∀ s t : State, s.Inv → step s = .next t → t.Inv

/-- The invariant (its canonical form of the register file is the model's choice, log entry 8) holds after construction
with any configuration that exists, and at reset (whose configuration is the model's choice, log entry 2). -/
def Obligations.ConstructionHasTheInvariant : Prop :=
  (∀ cfg : Configuration, configValid cfg = true → (State.construct cfg).Inv) ∧ State.reset.Inv
end

