-- ==== Sys2Proof/Laws/Decode.lean ====
section
/-! SUPPORT. The small lemmas of the offset fields: what the offset of a register of a slot decodes to. -/

namespace Sys2Proof

theorem slotOffset_toNat (i : SlotIx) (reg : RegOff) :
    (slotOffset i reg).toNat = 32 * i.toNat + reg.toNat := by
  unfold slotOffset
  rw [BitVec.toNat_append, BitVec.toNat_append, ← Nat.shiftLeft_add_eq_or_of_lt reg.isLt]
  simp [Nat.shiftLeft_eq]
  omega

@[simp] theorem slotIndex_slotOffset (i : SlotIx) (reg : RegOff) : slotIndex (slotOffset i reg) = i := by
  have hi := i.isLt
  have hr := reg.isLt
  apply BitVec.eq_of_toNat_eq
  rw [slotIndex, BitVec.extractLsb'_toNat, slotOffset_toNat, Nat.shiftRight_eq_div_pow]
  omega

@[simp] theorem regSelect_slotOffset (i : SlotIx) (reg : RegOff) : regSelect (slotOffset i reg) = reg := by
  have hr := reg.isLt
  apply BitVec.eq_of_toNat_eq
  rw [regSelect, BitVec.extractLsb'_toNat, slotOffset_toNat, Nat.shiftRight_eq_div_pow]
  omega

@[simp] theorem inWindow_slotOffset (i : SlotIx) (reg : RegOff) : inWindow (slotOffset i reg) = true := by
  have hi := i.isLt
  have hr := reg.isLt
  simp only [inWindow, slotOffset_toNat, Config.windowBytes, Config.maxSlots, Config.slotBytes, decide_eq_true_eq]
  omega

@[simp] theorem Request.read_we (off : Word) : (Request.read off).we = false := rfl
@[simp] theorem Request.read_off (off : Word) : (Request.read off).off = off := rfl
@[simp] theorem Request.write_we (off w : Word) : (Request.write off w).we = true := rfl
@[simp] theorem Request.write_off (off w : Word) : (Request.write off w).off = off := rfl
@[simp] theorem Request.write_wdata (off w : Word) : (Request.write off w).wdata = w := rfl

theorem outOfWindow_eq_not_inWindow (off : Word) : outOfWindow off = !inWindow off := by
  unfold outOfWindow inWindow
  by_cases h : off.toNat < Config.windowBytes
  · simp [h, Nat.not_le.mpr h]
  · simp [h, Nat.le_of_not_lt h]

end Sys2Proof
end

