-- ==== Sys2Proof/Laws/State.lean ====
section
/-! SUPPORT. One lemma per field per update of State, so that no proof unfolds a record update. -/

namespace Sys2Proof.Machine

variable (s : State) (i : SlotIx) (v : Slot) (w : Word) (k m : Nat) (kind : DiagKind) (off wdata : Word) (r : Request)

@[simp] theorem State.setSlot_cfg : (s.setSlot i v).cfg = s.cfg := rfl
@[simp] theorem State.setSlot_slots : (s.setSlot i v).slots = SlotTable.set s.slots i.toNat v := rfl
@[simp] theorem State.setSlot_rdata : (s.setSlot i v).rdata = s.rdata := rfl
@[simp] theorem State.setSlot_edges : (s.setSlot i v).edges = s.edges := rfl
@[simp] theorem State.setSlot_diags : (s.setSlot i v).diags = s.diags := rfl
@[simp] theorem State.setSlot_masters : (s.setSlot i v).masters = s.masters := rfl
@[simp] theorem State.setSlot_choices : (s.setSlot i v).choices = s.choices := rfl
@[simp] theorem State.setSlot_served : (s.setSlot i v).served = s.served := rfl

@[simp] theorem State.respond_cfg : (s.respond w).cfg = s.cfg := rfl
@[simp] theorem State.respond_slots : (s.respond w).slots = s.slots := rfl
@[simp] theorem State.respond_rdata : (s.respond w).rdata = w := rfl
@[simp] theorem State.respond_edges : (s.respond w).edges = s.edges := rfl
@[simp] theorem State.respond_diags : (s.respond w).diags = s.diags := rfl
@[simp] theorem State.respond_masters : (s.respond w).masters = s.masters := rfl
@[simp] theorem State.respond_choices : (s.respond w).choices = s.choices := rfl
@[simp] theorem State.respond_served : (s.respond w).served = s.served := rfl

@[simp] theorem State.raise_cfg : (s.raise k).cfg = s.cfg := rfl
@[simp] theorem State.raise_slots : (s.raise k).slots = s.slots := rfl
@[simp] theorem State.raise_rdata : (s.raise k).rdata = s.rdata := rfl
@[simp] theorem State.raise_edges : (s.raise k).edges = s.edges ++ [k] := rfl
@[simp] theorem State.raise_diags : (s.raise k).diags = s.diags := rfl
@[simp] theorem State.raise_masters : (s.raise k).masters = s.masters := rfl
@[simp] theorem State.raise_choices : (s.raise k).choices = s.choices := rfl
@[simp] theorem State.raise_served : (s.raise k).served = s.served := rfl

@[simp] theorem State.report_cfg : (s.report kind off wdata).cfg = s.cfg := rfl
@[simp] theorem State.report_slots : (s.report kind off wdata).slots = s.slots := rfl
@[simp] theorem State.report_rdata : (s.report kind off wdata).rdata = s.rdata := rfl
@[simp] theorem State.report_edges : (s.report kind off wdata).edges = s.edges := rfl
@[simp] theorem State.report_diags :
    (s.report kind off wdata).diags = s.diags ++ [⟨kind, off, wdata⟩] := rfl
@[simp] theorem State.report_masters : (s.report kind off wdata).masters = s.masters := rfl
@[simp] theorem State.report_choices : (s.report kind off wdata).choices = s.choices := rfl
@[simp] theorem State.report_served : (s.report kind off wdata).served = s.served := rfl

@[simp] theorem State.complete_cfg : (s.complete m r).cfg = s.cfg := rfl
@[simp] theorem State.complete_slots : (s.complete m r).slots = s.slots := rfl
@[simp] theorem State.complete_rdata : (s.complete m r).rdata = s.rdata := rfl
@[simp] theorem State.complete_edges : (s.complete m r).edges = s.edges := rfl
@[simp] theorem State.complete_diags : (s.complete m r).diags = s.diags := rfl
@[simp] theorem State.complete_masters : (s.complete m r).masters = s.masters.modify m List.tail := rfl
@[simp] theorem State.complete_choices : (s.complete m r).choices = s.choices.tail := rfl
@[simp] theorem State.complete_served : (s.complete m r).served = s.served ++ [⟨m, r, s.rdata⟩] := rfl

@[simp] theorem State.construct_cfg (cfg : Configuration) : (State.construct cfg).cfg = cfg := rfl
@[simp] theorem State.construct_slots (cfg : Configuration) : (State.construct cfg).slots = [] := rfl

end Sys2Proof.Machine
end

