-- ==== Sys2Proof/Laws/SlotTable.lean ====
section
/-! SUPPORT. The laws of the slot register file: read after write, write leaves other slots alone, and every write keeps the
canonical form. The first two hold of every list, canonical or not. -/

namespace Sys2Proof.Machine

@[simp] theorem SlotTable.get_nil (k : Nat) : SlotTable.get [] k = Slot.zero := rfl

theorem SlotTable.get_erase_same (t : List (Nat × Slot)) (k : Nat) :
    SlotTable.get (SlotTable.erase t k) k = Slot.zero := by
  induction t with
  | nil => rfl
  | cons e rest ih =>
    obtain ⟨j, v⟩ := e
    by_cases h : j = k
    · simpa [SlotTable.erase, h] using ih
    · have : SlotTable.erase ((j, v) :: rest) k = (j, v) :: SlotTable.erase rest k := by
        simp [SlotTable.erase, h]
      simp [this, SlotTable.get, h, ih]

theorem SlotTable.get_erase_ne (t : List (Nat × Slot)) {k j : Nat} (h : j ≠ k) :
    SlotTable.get (SlotTable.erase t k) j = SlotTable.get t j := by
  induction t with
  | nil => rfl
  | cons e rest ih =>
    obtain ⟨n, v⟩ := e
    by_cases hn : n = k
    · have hj : n ≠ j := fun e => h (e.symm.trans hn)
      have : SlotTable.erase ((n, v) :: rest) k = SlotTable.erase rest k := by
        simp [SlotTable.erase, hn]
      simp [this, SlotTable.get, hj, ih]
    · have : SlotTable.erase ((n, v) :: rest) k = (n, v) :: SlotTable.erase rest k := by
        simp [SlotTable.erase, hn]
      simp [this, SlotTable.get, ih]

theorem SlotTable.get_insert_ne (t : List (Nat × Slot)) {k j : Nat} (v : Slot) (h : j ≠ k) :
    SlotTable.get (SlotTable.insert t k v) j = SlotTable.get t j := by
  induction t with
  | nil => simp [SlotTable.insert, SlotTable.get, h.symm]
  | cons e rest ih =>
    obtain ⟨n, w⟩ := e
    by_cases hn : k < n
    · simp [SlotTable.insert, hn, SlotTable.get, h.symm]
    · simp [SlotTable.insert, hn, SlotTable.get, ih]

theorem SlotTable.get_insert_same (t : List (Nat × Slot)) (k : Nat) (v : Slot)
    (h : ∀ e ∈ t, e.1 ≠ k) : SlotTable.get (SlotTable.insert t k v) k = v := by
  induction t with
  | nil => simp [SlotTable.insert, SlotTable.get]
  | cons e rest ih =>
    obtain ⟨n, w⟩ := e
    have hne : n ≠ k := h (n, w) (by simp)
    by_cases hn : k < n
    · simp [SlotTable.insert, hn, SlotTable.get]
    · simp [SlotTable.insert, hn, SlotTable.get, hne, ih (fun e he => h e (by simp [he]))]

theorem SlotTable.ne_of_mem_erase (t : List (Nat × Slot)) (k : Nat) :
    ∀ e ∈ SlotTable.erase t k, e.1 ≠ k := by
  intro e he
  simpa using (List.mem_filter.mp he).2

@[simp] theorem SlotTable.get_set_same (t : List (Nat × Slot)) (k : Nat) (v : Slot) :
    SlotTable.get (SlotTable.set t k v) k = v := by
  unfold SlotTable.set
  split
  next h => rw [SlotTable.get_erase_same, h]
  next => exact SlotTable.get_insert_same _ _ _ (SlotTable.ne_of_mem_erase t k)

theorem SlotTable.get_set_ne (t : List (Nat × Slot)) {k j : Nat} (v : Slot) (h : j ≠ k) :
    SlotTable.get (SlotTable.set t k v) j = SlotTable.get t j := by
  unfold SlotTable.set
  split
  next => exact SlotTable.get_erase_ne t h
  next => rw [SlotTable.get_insert_ne _ v h, SlotTable.get_erase_ne t h]

theorem SlotTable.wfFrom_mono {lo hi : Nat} (h : lo ≤ hi) (t : List (Nat × Slot))
    (ht : SlotTable.wfFrom hi t = true) : SlotTable.wfFrom lo t = true := by
  cases t with
  | nil => rfl
  | cons e rest =>
    simp only [SlotTable.wfFrom, Bool.and_eq_true, decide_eq_true_eq] at ht ⊢
    exact ⟨⟨⟨by omega, ht.1.1.2⟩, ht.1.2⟩, ht.2⟩

theorem SlotTable.wfFrom_erase (k : Nat) : ∀ (lo : Nat) (t : List (Nat × Slot)),
    SlotTable.wfFrom lo t = true → SlotTable.wfFrom lo (SlotTable.erase t k) = true := by
  intro lo t
  induction t generalizing lo with
  | nil => exact id
  | cons e rest ih =>
    obtain ⟨j, v⟩ := e
    intro h
    simp only [SlotTable.wfFrom, Bool.and_eq_true, decide_eq_true_eq] at h
    by_cases hj : j = k
    · have : SlotTable.erase ((j, v) :: rest) k = SlotTable.erase rest k := by
        simp [SlotTable.erase, hj]
      rw [this]
      exact ih lo (SlotTable.wfFrom_mono (by omega) rest h.2)
    · have : SlotTable.erase ((j, v) :: rest) k = (j, v) :: SlotTable.erase rest k := by
        simp [SlotTable.erase, hj]
      rw [this]
      simp only [SlotTable.wfFrom, Bool.and_eq_true, decide_eq_true_eq]
      exact ⟨h.1, ih (j + 1) h.2⟩

theorem SlotTable.wfFrom_insert {k : Nat} {v : Slot} (hk : k < Config.maxSlots) (hv : v ≠ Slot.zero) :
    ∀ (lo : Nat) (t : List (Nat × Slot)), lo ≤ k → (∀ e ∈ t, e.1 ≠ k) →
    SlotTable.wfFrom lo t = true → SlotTable.wfFrom lo (SlotTable.insert t k v) = true := by
  intro lo t
  induction t generalizing lo with
  | nil =>
    intro hlo _ _
    simp [SlotTable.insert, SlotTable.wfFrom, hlo, hk, hv]
  | cons e rest ih =>
    obtain ⟨j, w⟩ := e
    intro hlo hne h
    simp only [SlotTable.wfFrom, Bool.and_eq_true, decide_eq_true_eq] at h
    by_cases hj : k < j
    · simp only [SlotTable.insert, hj, if_true, SlotTable.wfFrom, Bool.and_eq_true, decide_eq_true_eq]
      exact ⟨⟨⟨hlo, hk⟩, hv⟩, ⟨⟨⟨by omega, h.1.1.2⟩, h.1.2⟩, h.2⟩⟩
    · have hjk : j ≠ k := hne (j, w) (by simp)
      simp only [SlotTable.insert, hj, if_false, SlotTable.wfFrom, Bool.and_eq_true, decide_eq_true_eq]
      exact ⟨h.1, ih (j + 1) (by omega) (fun e he => hne e (by simp [he])) h.2⟩

/-- Every write keeps the canonical form. -/
theorem SlotTable.wf_set {t : List (Nat × Slot)} {k : Nat} (v : Slot) (hk : k < Config.maxSlots)
    (ht : SlotTable.wf t = true) : SlotTable.wf (SlotTable.set t k v) = true := by
  unfold SlotTable.set
  split
  next => exact SlotTable.wfFrom_erase k 0 t ht
  next hv =>
    exact SlotTable.wfFrom_insert hk hv 0 _ (Nat.zero_le k) (SlotTable.ne_of_mem_erase t k)
      (SlotTable.wfFrom_erase k 0 t ht)

/-- The table after reset is in canonical form. -/
theorem SlotTable.wf_nil : SlotTable.wf [] = true := rfl

/-- A slot index is in range, whatever it is (R61). -/
theorem SlotIx.lt_maxSlots (i : SlotIx) : i.toNat < Config.maxSlots := i.isLt

@[simp] theorem State.slot_setSlot_same (s : State) (i : SlotIx) (v : Slot) : (s.setSlot i v).slot i = v := by
  simp [State.slot]

theorem State.slot_setSlot_ne (s : State) {i j : SlotIx} (v : Slot) (h : j ≠ i) :
    (s.setSlot i v).slot j = s.slot j :=
  SlotTable.get_set_ne _ _ (fun e => h (BitVec.eq_of_toNat_eq e))

/-- The read of one slot after a write to another or the same slot, in one equation. -/
theorem State.slot_setSlot (s : State) (i j : SlotIx) (v : Slot) :
    (s.setSlot i v).slot j = if j = i then v else s.slot j := by
  by_cases h : j = i
  · simp [h]
  · simp [h, State.slot_setSlot_ne s v h]

@[simp] theorem State.slot_respond (s : State) (w : Word) (j : SlotIx) : (s.respond w).slot j = s.slot j := rfl
@[simp] theorem State.slot_raise (s : State) (k : Nat) (j : SlotIx) : (s.raise k).slot j = s.slot j := rfl
@[simp] theorem State.slot_report (s : State) (kind : DiagKind) (off w : Word) (j : SlotIx) :
    (s.report kind off w).slot j = s.slot j := rfl
@[simp] theorem State.slot_complete (s : State) (m : Nat) (r : Request) (j : SlotIx) :
    (s.complete m r).slot j = s.slot j := rfl
@[simp] theorem State.slot_construct (cfg : Configuration) (j : SlotIx) :
    (State.construct cfg).slot j = Slot.zero := rfl

theorem State.setSlot_wf {s : State} (i : SlotIx) (v : Slot) (h : SlotTable.wf s.slots = true) :
    SlotTable.wf (s.setSlot i v).slots = true :=
  SlotTable.wf_set v (SlotIx.lt_maxSlots i) h

end Sys2Proof.Machine
end

