-- ==== Sys2Proof/Laws/Ops.lean ====
section
/-! SUPPORT. What each shared operation can do, said once: the invalid access, the send, and the step. -/

namespace Sys2Proof.Machine

@[simp] theorem readDone_eq (v : Word) (s : State) : readDone v s = .next (s.respond v) := rfl

@[simp] theorem writeDone_eq (s : State) : writeDone s = .next (s.respond 0) := rfl

@[simp] theorem invalidRead_eq (off : Word) (s : State) :
    invalidRead off s = .next ((s.report .invalidRead off 0).respond 0) := rfl

@[simp] theorem invalidWrite_eq (off wdata : Word) (s : State) :
    invalidWrite off wdata s = .next ((s.report .invalidWrite off wdata).respond 0) := rfl

@[simp] theorem dropSend_eq (kind : DiagKind) (i : SlotIx) (b : Word) (s : State) :
    dropSend kind i b s = .next ((s.report kind (slotOffset i Config.regSend) b).respond 0) := rfl

/-- Where the line of a hart is found, it is an existing line and the hart is the one it is wired to. -/
theorem lineOf_eq_some {cfg : Configuration} {h : HartId} {k : Nat} (e : lineOf cfg h = some k) :
    k < cfg.numHarts.toNat ∧ cfg.hartIdBase.toNat + k = h.toNat := by
  unfold lineOf at e
  split at e
  · simp only [Option.some.injEq] at e; omega
  · cases e

theorem lineOf_eq_none {cfg : Configuration} {h : HartId} (e : lineOf cfg h = none) :
    h.toNat < cfg.hartIdBase.toNat ∨ cfg.hartIdBase.toNat + cfg.numHarts.toNat ≤ h.toNat := by
  unfold lineOf at e
  split at e
  · cases e
  · omega

/-- Everything a send can do: nothing, one of three reports, or the update and the edge of R80. -/
theorem execWrSend_cases {i : SlotIx} {b : Word} {s t : State} (h : execWrSend i b s = .next t) :
    ((s.slot i).active = false ∧ t = s.respond 0) ∨
    ((s.slot i).active = true ∧ hartPresent s.cfg (zextHart (s.slot i).targetHart) = false ∧
      t = (s.report .targetNotFound (slotOffset i Config.regSend) b).respond 0) ∨
    ((s.slot i).active = true ∧ hartPresent s.cfg (zextHart (s.slot i).targetHart) = true ∧
      lineOf s.cfg (zextHart (s.slot i).targetHart) = none ∧
      t = (s.report .targetUnwired (slotOffset i Config.regSend) b).respond 0) ∨
    (∃ k, (s.slot i).active = true ∧ hartPresent s.cfg (zextHart (s.slot i).targetHart) = true ∧
      lineOf s.cfg (zextHart (s.slot i).targetHart) = some k ∧ (s.slot i).inRange b = false ∧
      t = (s.report .sendRange (slotOffset i Config.regSend) b).respond 0) ∨
    (∃ k, (s.slot i).active = true ∧ hartPresent s.cfg (zextHart (s.slot i).targetHart) = true ∧
      lineOf s.cfg (zextHart (s.slot i).targetHart) = some k ∧ (s.slot i).inRange b = true ∧
      t = ((s.setSlot i ((s.slot i).setLiveBit b)).raise k).respond 0) := by
  unfold execWrSend at h
  by_cases ha : (s.slot i).active = true
  · by_cases hp : hartPresent s.cfg (zextHart (s.slot i).targetHart) = true
    · cases hl : lineOf s.cfg (zextHart (s.slot i).targetHart) with
      | none => simp [ha, hp, hl] at h; simp [ha, hp, h]
      | some k =>
        by_cases hr : (s.slot i).inRange b = true
        · simp [ha, hp, hl, hr] at h; simp [ha, hp, hr, h]
        · simp [ha, hp, hl, hr] at h; simp [ha, hp, hr, h]
    · simp [ha, hp] at h; simp [ha, hp, h]
  · simp [ha] at h; simp [ha, h]

/-- Everything a step that goes on can do: nothing, because no master has a transaction outstanding, or serve the
granted transaction. -/
theorem step_cases {s t : State} (h : step s = .next t) :
    configValid s.cfg = true ∧
    ((s.nextTransaction = none ∧ t = s) ∨
     (∃ m r u, s.nextTransaction = some (m, r) ∧ exec (decode r) s = .next u ∧ t = u.complete m r)) := by
  unfold step at h
  split at h
  next hv =>
    refine ⟨hv, ?_⟩
    split at h
    next hn => exact .inl ⟨hn, by cases h; rfl⟩
    next m r hn =>
      split at h
      next u hu => exact .inr ⟨m, r, u, hn, hu, by cases h; rfl⟩
      next => cases h
      next => cases h
  next => cases h

/-- A master that is granted has a transaction outstanding, and it is the one served. -/
theorem nextTransaction_eq_some {s : State} {m : Nat} {r : Request} (h : s.nextTransaction = some (m, r)) :
    s.grantedMaster = some m ∧ (s.queue m).head? = some r := by
  unfold State.nextTransaction at h
  split at h
  next => cases h
  next n hn =>
    cases hq : (s.queue n).head? with
    | none => simp [hq] at h
    | some q =>
      simp [hq] at h
      obtain ⟨rfl, rfl⟩ := h
      exact ⟨hn, hq⟩

end Sys2Proof.Machine
end

