-- ==== Sys2Proof/Laws/Exec.lean ====
section
/-! SUPPORT. What an operation can do, said once for all 24: it writes at most the addressed slot, answers a value, and emits at
most one edge or event; what it does depends on the configuration and the addressed slot alone. -/

namespace Sys2Proof.Machine

/-- The register file after an operation that writes `w` to the slot it is addressed to. -/
def writeBack (i : Option SlotIx) (w : Option Slot) (t : List (Nat × Slot)) : List (Nat × Slot) :=
  match i, w with
  | some j, some v => SlotTable.set t j.toNat v
  | _, _ => t

/-- What an operation leaves: the written slot, the response, the edges and the events added. -/
structure Effect where
  slot : Option Slot
  rdata : Word
  edges : List Nat
  diags : List DiagEvent

/-- An effect applied to a state. -/
def Effect.apply (e : Effect) (i : Instr) (s : State) : State :=
  { s with
    slots := writeBack i.slot? e.slot s.slots
    rdata := e.rdata
    edges := s.edges ++ e.edges
    diags := s.diags ++ e.diags }

@[simp] theorem Effect.apply_cfg (e : Effect) (i : Instr) (s : State) : (e.apply i s).cfg = s.cfg := rfl
@[simp] theorem Effect.apply_rdata (e : Effect) (i : Instr) (s : State) : (e.apply i s).rdata = e.rdata := rfl
@[simp] theorem Effect.apply_edges (e : Effect) (i : Instr) (s : State) :
    (e.apply i s).edges = s.edges ++ e.edges := rfl
@[simp] theorem Effect.apply_diags (e : Effect) (i : Instr) (s : State) :
    (e.apply i s).diags = s.diags ++ e.diags := rfl
@[simp] theorem Effect.apply_masters (e : Effect) (i : Instr) (s : State) : (e.apply i s).masters = s.masters := rfl
@[simp] theorem Effect.apply_choices (e : Effect) (i : Instr) (s : State) : (e.apply i s).choices = s.choices := rfl
@[simp] theorem Effect.apply_served (e : Effect) (i : Instr) (s : State) : (e.apply i s).served = s.served := rfl

/-- The addressed slot after an effect is the one written, any other slot is as before. -/
theorem Effect.apply_slot (e : Effect) (i : Instr) (s : State) (j : SlotIx) :
    (e.apply i s).slot j = if i.slot? = some j then e.slot.getD (s.slot j) else s.slot j := by
  unfold Effect.apply State.slot writeBack
  cases hi : i.slot? with
  | none => simp
  | some a =>
    cases he : e.slot with
    | none => simp
    | some v =>
      by_cases h : a = j
      · simp [h]
      · have : j.toNat ≠ a.toNat := fun h' => h (BitVec.eq_of_toNat_eq h').symm
        simp [h, SlotTable.get_set_ne _ _ this]

theorem Effect.apply_wf (e : Effect) (i : Instr) {s : State} (h : SlotTable.wf s.slots = true) :
    SlotTable.wf (e.apply i s).slots = true := by
  unfold Effect.apply writeBack
  cases i.slot? with
  | none => exact h
  | some j =>
    cases e.slot with
    | none => exact h
    | some v => exact SlotTable.wf_set v (SlotIx.lt_maxSlots j) h

/-- The effect of `i` in every state that agrees with `s` on the configuration and on the slot `i` is addressed to. -/
def HasEffect (i : Instr) (s : State) (e : Effect) : Prop :=
  ∀ u : State, u.cfg = s.cfg → (∀ j, i.slot? = some j → u.slot j = s.slot j) → exec i u = .next (e.apply i u)

theorem State.report_eq_apply (s : State) (kind : DiagKind) (off w v : Word) (i : Instr) :
    (s.report kind off w).respond v = Effect.apply ⟨none, v, [], [⟨kind, off, w⟩]⟩ i s := by
  simp only [Effect.apply, writeBack, List.append_nil]
  split <;> first | rfl | simp_all

theorem State.respond_eq_apply (s : State) (v : Word) (i : Instr) :
    s.respond v = Effect.apply ⟨none, v, [], []⟩ i s := by
  simp only [Effect.apply, writeBack, List.append_nil]
  split <;> first | rfl | simp_all

theorem State.write_eq_apply (s : State) (v : Slot) {i : Instr} {j : SlotIx} (h : i.slot? = some j) :
    (s.setSlot j v).respond 0 = Effect.apply ⟨some v, 0, [], []⟩ i s := by
  simp only [Effect.apply, writeBack, h, List.append_nil]; rfl

theorem State.send_eq_apply (s : State) (v : Slot) (k : Nat) {i : Instr} {j : SlotIx} (h : i.slot? = some j) :
    ((s.setSlot j v).raise k).respond 0 = Effect.apply ⟨some v, 0, [k], []⟩ i s := by
  simp only [Effect.apply, writeBack, h, List.append_nil]; rfl

/-- A send: nothing, one event of the three a send reports, or the update and the edge. -/
theorem wrSend_effect (i : SlotIx) (b : Word) (s : State) :
    ∃ e, HasEffect (.wrSend i b) s e ∧ e.rdata = 0 ∧
      ((e.slot = none ∧ e.edges = [] ∧ e.diags.length ≤ 1 ∧
          ∀ d ∈ e.diags, (d.kind = .targetNotFound ∨ d.kind = .targetUnwired ∨ d.kind = .sendRange) ∧
            d.off = slotOffset i Config.regSend ∧ d.wdata = b) ∨
       (∃ k, (s.slot i).active = true ∧ hartPresent s.cfg (zextHart (s.slot i).targetHart) = true ∧
          lineOf s.cfg (zextHart (s.slot i).targetHart) = some k ∧ (s.slot i).inRange b = true ∧
          e.slot = some ((s.slot i).setLiveBit b) ∧ e.edges = [k] ∧ e.diags = [])) := by
  have sl : ∀ u : State, (∀ j, (Instr.wrSend i b).slot? = some j → u.slot j = s.slot j) → u.slot i = s.slot i :=
    fun u h => h i rfl
  by_cases ha : (s.slot i).active = true
  · by_cases hp : hartPresent s.cfg (zextHart (s.slot i).targetHart) = true
    · cases hl : lineOf s.cfg (zextHart (s.slot i).targetHart) with
      | none =>
        refine ⟨⟨none, 0, [], [⟨.targetUnwired, slotOffset i Config.regSend, b⟩]⟩, ?_, rfl, .inl (by simp)⟩
        intro u h1 h2
        simp [exec, execWrSend, h1, sl u h2, ha, hp, hl, State.report_eq_apply _ _ _ _ _ (.wrSend i b)]
      | some k =>
        by_cases hr : (s.slot i).inRange b = true
        · refine ⟨⟨some ((s.slot i).setLiveBit b), 0, [k], []⟩, ?_, rfl,
            .inr ⟨k, ha, hp, rfl, hr, rfl, rfl, rfl⟩⟩
          intro u h1 h2
          simp only [exec, execWrSend, h1, sl u h2, ha, hp, hl, hr, if_true, writeDone_eq]
          exact congrArg _ (State.send_eq_apply u _ k rfl)
        · refine ⟨⟨none, 0, [], [⟨.sendRange, slotOffset i Config.regSend, b⟩]⟩, ?_, rfl, .inl (by simp)⟩
          intro u h1 h2
          simp [exec, execWrSend, h1, sl u h2, ha, hp, hl, hr, State.report_eq_apply _ _ _ _ _ (.wrSend i b)]
    · refine ⟨⟨none, 0, [], [⟨.targetNotFound, slotOffset i Config.regSend, b⟩]⟩, ?_, rfl, .inl (by simp)⟩
      intro u h1 h2
      simp [exec, execWrSend, h1, sl u h2, ha, hp, State.report_eq_apply _ _ _ _ _ (.wrSend i b)]
  · refine ⟨⟨none, 0, [], []⟩, ?_, rfl, .inl (by simp)⟩
    intro u h1 h2
    simp [exec, execWrSend, sl u h2, ha, State.respond_eq_apply _ _ (.wrSend i b)]

/-- Every operation has an effect, and emits at most one edge or event (R80, R141). -/
theorem exec_effect (i : Instr) (s : State) :
    ∃ e, HasEffect i s e ∧ e.edges.length + e.diags.length ≤ 1 := by
  have inv : ∀ i off, (∀ u, exec i u = invalidRead off u) →
      ∃ e, HasEffect i s e ∧ e.edges.length + e.diags.length ≤ 1 := fun i off h =>
    ⟨⟨none, 0, [], [⟨.invalidRead, off, 0⟩]⟩,
      fun u _ _ => by rw [h, invalidRead_eq, State.report_eq_apply _ _ _ _ _ i], by simp⟩
  have invw : ∀ i off w, (∀ u, exec i u = invalidWrite off w u) →
      ∃ e, HasEffect i s e ∧ e.edges.length + e.diags.length ≤ 1 := fun i off w h =>
    ⟨⟨none, 0, [], [⟨.invalidWrite, off, w⟩]⟩,
      fun u _ _ => by rw [h, invalidWrite_eq, State.report_eq_apply _ _ _ _ _ i], by simp⟩
  have rd : ∀ i v, (∀ u, (∀ j, i.slot? = some j → u.slot j = s.slot j) → exec i u = readDone v u) →
      ∃ e, HasEffect i s e ∧ e.edges.length + e.diags.length ≤ 1 := fun i v h =>
    ⟨⟨none, v, [], []⟩, fun u _ hu => by rw [h u hu, readDone_eq, State.respond_eq_apply _ _ i], by simp⟩
  have wr : ∀ i j v, i.slot? = some j →
      (∀ u, (∀ j, i.slot? = some j → u.slot j = s.slot j) → exec i u = writeDone (u.setSlot j v)) →
      ∃ e, HasEffect i s e ∧ e.edges.length + e.diags.length ≤ 1 := fun i j v hj h =>
    ⟨⟨some v, 0, [], []⟩, fun u _ hu => by rw [h u hu, writeDone_eq, State.write_eq_apply _ _ hj], by simp⟩
  cases i with
  | rdSend j => exact inv _ _ fun _ => rfl
  | wrSend j b =>
    obtain ⟨e, h, _, ⟨_, h1, h2, _⟩ | ⟨k, _, _, _, _, _, h1, h2⟩⟩ := wrSend_effect j b s
    · exact ⟨e, h, by simpa [h1] using h2⟩
    · exact ⟨e, h, by simp [h1, h2]⟩
  | rdRsvd04 j => exact inv _ _ fun _ => rfl
  | wrRsvd04 j w => exact invw _ _ _ fun _ => rfl
  | rdLow j => exact rd _ (packLow (s.slot j)) fun u h => by simp only [exec, execRdLow, h j rfl]
  | wrLow j w => exact wr _ j ((s.slot j).withLow w) rfl fun u h => by simp only [exec, execWrLow, h j rfl]
  | rdLowHi j => exact rd _ _ fun u h => rfl
  | wrLowHi j w => exact rd _ 0 fun u h => rfl
  | rdHigh j => exact rd _ (s.slot j).live fun u h => by simp only [exec, execRdHigh, h j rfl]
  | wrHigh j w => exact wr _ j ((s.slot j).withLive w) rfl fun u h => by simp only [exec, execWrHigh, h j rfl]
  | rdHighHi j =>
    cases hw : (s.slot j).width with
    | narrow => exact rd _ (zext32 (highHalf (s.slot j).pendingWide)) fun u h => by simp only [exec, execRdHighHi, h j rfl, hw]
    | wide =>
      exact ⟨⟨none, 0, [], [⟨.invalidRead, slotOffset j Config.regHighHi, 0⟩]⟩, fun u _ h => by
        simp only [exec, execRdHighHi, h j rfl, hw, invalidRead_eq,
          State.report_eq_apply _ _ _ _ _ (.rdHighHi j)], by simp⟩
  | wrHighHi j w =>
    cases hw : (s.slot j).width with
    | wide => exact wr _ j ((s.slot j).orWideHigh w) rfl fun u h => by simp only [exec, execWrHighHi, h j rfl, hw]
    | narrow =>
      exact ⟨⟨none, 0, [], [⟨.invalidWrite, slotOffset j Config.regHighHi, w⟩]⟩, fun u _ h => by
        simp only [exec, execWrHighHi, h j rfl, hw, invalidWrite_eq,
          State.report_eq_apply _ _ _ _ _ (.wrHighHi j w)], by simp⟩
  | rdActive j => exact rd _ (zext1 (s.slot j).active) fun u h => by simp only [exec, execRdActive, h j rfl]
  | wrActive j w => exact wr _ j ((s.slot j).withActive (isNonzero w)) rfl fun u h => by simp only [exec, execWrActive, h j rfl]
  | rdActiveHi j => exact rd _ _ fun u h => rfl
  | wrActiveHi j w => exact rd _ 0 fun u h => rfl
  | rdMisal1 off => exact inv _ _ fun _ => rfl
  | rdMisal2 off => exact inv _ _ fun _ => rfl
  | rdMisal3 off => exact inv _ _ fun _ => rfl
  | wrMisal1 off w => exact invw _ _ _ fun _ => rfl
  | wrMisal2 off w => exact invw _ _ _ fun _ => rfl
  | wrMisal3 off w => exact invw _ _ _ fun _ => rfl
  | rdOor off => exact inv _ _ fun _ => rfl
  | wrOor off w => exact invw _ _ _ fun _ => rfl

end Sys2Proof.Machine
end

