-- ==== Sys2Proof/Laws/Key.lean ====
section
/-! SUPPORT. The request key under the three masks of R63: what each row of the table looks at. -/

namespace Sys2Proof

/-- The mask `0xC01F` keeps `we`, `oor` and `reg`. -/
theorem Request.key_and_reg (r : Request) : r.key &&& 0xC01F#16 =
    BitVec.ofBool r.we ++ BitVec.ofBool (outOfWindow r.off) ++ (0#9 ++ regSelect r.off) := by
  have h : (0xC01F#16 : BitVec 16) = BitVec.allOnes 1 ++ BitVec.allOnes 1 ++ (0#9 ++ BitVec.allOnes 5) := by decide
  have hs : r.off.extractLsb' 0 14 = r.off.extractLsb' 5 9 ++ r.off.extractLsb' 0 5 := by
    apply BitVec.eq_of_toNat_eq
    rw [BitVec.toNat_append, ← Nat.shiftLeft_add_eq_or_of_lt (BitVec.isLt _)]
    simp only [BitVec.extractLsb'_toNat, Nat.shiftRight_eq_div_pow, Nat.shiftLeft_eq]
    omega
  rw [Request.key, h, hs, regSelect]
  rw [BitVec.and_append, BitVec.and_append, BitVec.and_append, BitVec.and_allOnes, BitVec.and_allOnes,
    BitVec.and_allOnes, BitVec.and_zero]

/-- The mask `0xC003` keeps `we`, `oor` and `reg[1:0]`. -/
theorem Request.key_and_misal (r : Request) : r.key &&& 0xC003#16 =
    BitVec.ofBool r.we ++ BitVec.ofBool (outOfWindow r.off) ++ (0#12 ++ r.off.extractLsb' 0 2) := by
  have h : (0xC003#16 : BitVec 16) = BitVec.allOnes 1 ++ BitVec.allOnes 1 ++ (0#12 ++ BitVec.allOnes 2) := by decide
  have hs : r.off.extractLsb' 0 14 = r.off.extractLsb' 2 12 ++ r.off.extractLsb' 0 2 := by
    apply BitVec.eq_of_toNat_eq
    rw [BitVec.toNat_append, ← Nat.shiftLeft_add_eq_or_of_lt (BitVec.isLt _)]
    simp only [BitVec.extractLsb'_toNat, Nat.shiftRight_eq_div_pow, Nat.shiftLeft_eq]
    omega
  rw [Request.key, h, hs]
  rw [BitVec.and_append, BitVec.and_append, BitVec.and_append, BitVec.and_allOnes, BitVec.and_allOnes,
    BitVec.and_allOnes, BitVec.and_zero]

/-- The mask `0xC000` keeps `we` and `oor`. -/
theorem Request.key_and_oor (r : Request) : r.key &&& 0xC000#16 =
    BitVec.ofBool r.we ++ BitVec.ofBool (outOfWindow r.off) ++ 0#14 := by
  have h : (0xC000#16 : BitVec 16) = BitVec.allOnes 1 ++ BitVec.allOnes 1 ++ 0#14 := by decide
  rw [Request.key, h]
  rw [BitVec.and_append, BitVec.and_append, BitVec.and_allOnes, BitVec.and_allOnes, BitVec.and_zero]

end Sys2Proof
end

