-- ==== Sys2Proof/Laws/PerInstr.lean ====
section
/-! SUPPORT. The per-operation statement EncodesInRow: a well-formed operation's request lies in its own row of R63. -/

namespace Sys2Proof.Laws.EncodesInRow

/-- R63: `K & mask = match` holds of the request of a well-formed operation, for the row of that operation. -/
def Statement (i : Instr) : Prop := i.wellFormed = true → i.op.accepts (encode i).key = true

theorem reg_row {r : Request} {i : SlotIx} {reg : RegOff} (ho : r.off = slotOffset i reg) :
    r.key &&& 0xC01F#16 = BitVec.ofBool r.we ++ 0#1 ++ (0#9 ++ reg) := by
  rw [Request.key_and_reg, ho, regSelect_slotOffset, outOfWindow_eq_not_inWindow, inWindow_slotOffset]; rfl

theorem misal_row {r : Request} {n : BitVec 2} (h : misalignedBy n r.off = true) :
    r.key &&& 0xC003#16 = BitVec.ofBool r.we ++ 0#1 ++ (0#12 ++ n) := by
  simp only [misalignedBy, Bool.and_eq_true, decide_eq_true_eq, beq_iff_eq] at h
  rw [Request.key_and_misal, h.2]
  have : outOfWindow r.off = false := by simp [outOfWindow, h.1]
  rw [this]; rfl

theorem oor_row {r : Request} (h : outOfWindow r.off = true) :
    r.key &&& 0xC000#16 = BitVec.ofBool r.we ++ 1#1 ++ 0#14 := by
  rw [Request.key_and_oor, h]; rfl

theorem of_reg {x : Instr} {i : SlotIx} {reg : RegOff} (o : Op) (hx : x.op = o) (hm : o.mask = 0xC01F)
    (hw : (encode x).we = o.isWrite) (ho : (encode x).off = slotOffset i reg)
    (hp : BitVec.ofBool o.isWrite ++ 0#1 ++ (0#9 ++ reg) = o.pattern) : Statement x := by
  intro _
  rw [Op.accepts, hx, hm, beq_iff_eq, ← hp, ← hw]
  exact reg_row ho

theorem of_misal {x : Instr} {n : BitVec 2} (o : Op) (hx : x.op = o) (hm : o.mask = 0xC003)
    (hw : (encode x).we = o.isWrite) (ho : x.wellFormed = misalignedBy n (encode x).off)
    (hp : BitVec.ofBool o.isWrite ++ 0#1 ++ (0#12 ++ n) = o.pattern) : Statement x := by
  intro h
  rw [Op.accepts, hx, hm, beq_iff_eq, ← hp, ← hw]
  exact misal_row (ho ▸ h)

theorem of_oor {x : Instr} (o : Op) (hx : x.op = o) (hm : o.mask = 0xC000)
    (hw : (encode x).we = o.isWrite) (ho : x.wellFormed = outOfWindow (encode x).off)
    (hp : BitVec.ofBool o.isWrite ++ 1#1 ++ 0#14 = o.pattern) : Statement x := by
  intro h
  rw [Op.accepts, hx, hm, beq_iff_eq, ← hp, ← hw]
  exact oor_row (ho ▸ h)

theorem rdSend (i : SlotIx) : Statement (.rdSend i) := of_reg (i := i) (reg := Config.regSend) .rdSend rfl rfl rfl rfl (by decide)
theorem wrSend (i : SlotIx) (w : Word) : Statement (.wrSend i w) := of_reg (i := i) (reg := Config.regSend) .wrSend rfl rfl rfl rfl (by decide)
theorem rdRsvd04 (i : SlotIx) : Statement (.rdRsvd04 i) := of_reg (i := i) (reg := Config.regRsvd04) .rdRsvd04 rfl rfl rfl rfl (by decide)
theorem wrRsvd04 (i : SlotIx) (w : Word) : Statement (.wrRsvd04 i w) := of_reg (i := i) (reg := Config.regRsvd04) .wrRsvd04 rfl rfl rfl rfl (by decide)
theorem rdLow (i : SlotIx) : Statement (.rdLow i) := of_reg (i := i) (reg := Config.regLow) .rdLow rfl rfl rfl rfl (by decide)
theorem wrLow (i : SlotIx) (w : Word) : Statement (.wrLow i w) := of_reg (i := i) (reg := Config.regLow) .wrLow rfl rfl rfl rfl (by decide)
theorem rdLowHi (i : SlotIx) : Statement (.rdLowHi i) := of_reg (i := i) (reg := Config.regLowHi) .rdLowHi rfl rfl rfl rfl (by decide)
theorem wrLowHi (i : SlotIx) (w : Word) : Statement (.wrLowHi i w) := of_reg (i := i) (reg := Config.regLowHi) .wrLowHi rfl rfl rfl rfl (by decide)
theorem rdHigh (i : SlotIx) : Statement (.rdHigh i) := of_reg (i := i) (reg := Config.regHigh) .rdHigh rfl rfl rfl rfl (by decide)
theorem wrHigh (i : SlotIx) (w : Word) : Statement (.wrHigh i w) := of_reg (i := i) (reg := Config.regHigh) .wrHigh rfl rfl rfl rfl (by decide)
theorem rdHighHi (i : SlotIx) : Statement (.rdHighHi i) := of_reg (i := i) (reg := Config.regHighHi) .rdHighHi rfl rfl rfl rfl (by decide)
theorem wrHighHi (i : SlotIx) (w : Word) : Statement (.wrHighHi i w) := of_reg (i := i) (reg := Config.regHighHi) .wrHighHi rfl rfl rfl rfl (by decide)
theorem rdActive (i : SlotIx) : Statement (.rdActive i) := of_reg (i := i) (reg := Config.regActive) .rdActive rfl rfl rfl rfl (by decide)
theorem wrActive (i : SlotIx) (w : Word) : Statement (.wrActive i w) := of_reg (i := i) (reg := Config.regActive) .wrActive rfl rfl rfl rfl (by decide)
theorem rdActiveHi (i : SlotIx) : Statement (.rdActiveHi i) := of_reg (i := i) (reg := Config.regActiveHi) .rdActiveHi rfl rfl rfl rfl (by decide)
theorem wrActiveHi (i : SlotIx) (w : Word) : Statement (.wrActiveHi i w) :=
  of_reg (i := i) (reg := Config.regActiveHi) .wrActiveHi rfl rfl rfl rfl (by decide)
theorem rdMisal1 (off : Word) : Statement (.rdMisal1 off) := of_misal .rdMisal1 rfl rfl rfl rfl (by decide)
theorem rdMisal2 (off : Word) : Statement (.rdMisal2 off) := of_misal .rdMisal2 rfl rfl rfl rfl (by decide)
theorem rdMisal3 (off : Word) : Statement (.rdMisal3 off) := of_misal .rdMisal3 rfl rfl rfl rfl (by decide)
theorem wrMisal1 (off w : Word) : Statement (.wrMisal1 off w) := of_misal .wrMisal1 rfl rfl rfl rfl (by decide)
theorem wrMisal2 (off w : Word) : Statement (.wrMisal2 off w) := of_misal .wrMisal2 rfl rfl rfl rfl (by decide)
theorem wrMisal3 (off w : Word) : Statement (.wrMisal3 off w) := of_misal .wrMisal3 rfl rfl rfl rfl (by decide)
theorem rdOor (off : Word) : Statement (.rdOor off) := of_oor .rdOor rfl rfl rfl rfl (by decide)
theorem wrOor (off w : Word) : Statement (.wrOor off w) := of_oor .wrOor rfl rfl rfl rfl (by decide)

end Sys2Proof.Laws.EncodesInRow
end

