-- ==== Sys2Proof/Tests/Slice0.lean ====
section
/-! SUPPORT. The model's own tests: ill-formed terms, decode, one-step vectors of spec/95_test_vectors.md, and a witness for the
hypotheses of every statement that has some. Expected results are the spec's; each test names the table it is from. -/

namespace Sys2Proof.Tests

open Sys2Proof.Machine

/- ## Helpers -/

/-- 95_test_vectors.md section 0, CFG-A. -/
def cfgA : Configuration := ⟨0x10000000, 0, 4, [0, 1, 2, 3]⟩
/-- 95_test_vectors.md section 0, CFG-B: harts 4 to 7 exist but are unwired. -/
def cfgB : Configuration := ⟨0x10000000, 0, 4, [0, 1, 2, 3, 4, 5, 6, 7]⟩
/-- 95_test_vectors.md section 0, CFG-C: wired harts 16 and 17, harts 0 to 15 exist but are unwired. -/
def cfgC : Configuration :=
  ⟨0x80000020, 16, 2, [0, 1, 2, 3, 4, 5, 6, 7, 8, 9, 10, 11, 12, 13, 14, 15, 16, 17]⟩

/-- The state after construction with slot `i` set to `v`. -/
def stateOf (cfg : Configuration) (i : SlotIx) (v : Slot) : State := (State.construct cfg).setSlot i v

/-- What a vector observes: `rdata`, the slot, the edges and the events. None when the machine stops. -/
def seen (i : SlotIx) (r : Result) : Option (Word × Slot × List Nat × List DiagEvent) :=
  match r with
  | .next t => some (t.rdata, t.slot i, t.edges, t.diags)
  | .fault _ => none
  | .refused _ => none

/-- The requests the masters have outstanding, in a state with slot 1 set up as in program P4. -/
def busState (ms : List (List Request)) (picks : List Nat) : State :=
  { stateOf cfgA 1 ⟨true, .narrow, 1, 0, 0⟩ with masters := ms, choices := picks }

/- ## Each check of WellFormed refuses an ill-formed term -/

theorem test_illformed_rdMisal1 : (Instr.rdMisal1 0x0002).wellFormed = false := by decide
theorem test_illformed_rdMisal2 : (Instr.rdMisal2 0x0004).wellFormed = false := by decide
theorem test_illformed_rdMisal3 : (Instr.rdMisal3 0x0001).wellFormed = false := by decide
theorem test_illformed_wrMisal1 : (Instr.wrMisal1 0x4001 7).wellFormed = false := by decide
theorem test_illformed_wrMisal2 : (Instr.wrMisal2 0x4002 7).wellFormed = false := by decide
theorem test_illformed_wrMisal3 : (Instr.wrMisal3 0xFFFFFFFFFFFFFFFF 7).wellFormed = false := by decide
theorem test_illformed_rdOor : (Instr.rdOor 0x3FFF).wellFormed = false := by decide
theorem test_illformed_wrOor : (Instr.wrOor 0x0000 7).wellFormed = false := by decide

/- ## Decode: one word for every constructor, its bits from R62 and R63 (`we`, `oor`, slot, reg) -/

theorem test_decode_rdSend : decodeTableWord 16 0b0_0_000000101_00000 = some (.rdSend 5) := by decide
theorem test_decode_wrSend : decodeTableWord 16 0b1_0_100000000_00000 = some (.wrSend 256 0) := by decide
theorem test_decode_rdRsvd04 : decodeTableWord 16 0b0_0_000000001_00100 = some (.rdRsvd04 1) := by decide
theorem test_decode_wrRsvd04 : decodeTableWord 16 0b1_0_000000000_00100 = some (.wrRsvd04 0 0) := by decide
theorem test_decode_rdLow : decodeTableWord 16 0b0_0_000000001_01000 = some (.rdLow 1) := by decide
theorem test_decode_wrLow : decodeTableWord 16 0b1_0_000000011_01000 = some (.wrLow 3 0) := by decide
theorem test_decode_rdLowHi : decodeTableWord 16 0b0_0_000000001_01100 = some (.rdLowHi 1) := by decide
theorem test_decode_wrLowHi : decodeTableWord 16 0b1_0_111111111_01100 = some (.wrLowHi 511 0) := by decide
theorem test_decode_rdHigh : decodeTableWord 16 0b0_0_000000101_10000 = some (.rdHigh 5) := by decide
theorem test_decode_wrHigh : decodeTableWord 16 0b1_0_011111010_10000 = some (.wrHigh 250 0) := by decide
theorem test_decode_rdHighHi : decodeTableWord 16 0b0_0_000000101_10100 = some (.rdHighHi 5) := by decide
theorem test_decode_wrHighHi : decodeTableWord 16 0b1_0_011111010_10100 = some (.wrHighHi 250 0) := by decide
theorem test_decode_rdActive : decodeTableWord 16 0b0_0_111111111_11000 = some (.rdActive 511) := by decide
theorem test_decode_wrActive : decodeTableWord 16 0b1_0_000000110_11000 = some (.wrActive 6 0) := by decide
theorem test_decode_rdActiveHi : decodeTableWord 16 0b0_0_000000110_11100 = some (.rdActiveHi 6) := by decide
theorem test_decode_wrActiveHi : decodeTableWord 16 0b1_0_111111111_11100 = some (.wrActiveHi 511 0) := by decide
theorem test_decode_rdMisal1 : decodeTableWord 16 0b0_0_000000000_10101 = some (.rdMisal1 0x0015) := by decide
theorem test_decode_rdMisal2 : decodeTableWord 16 0b0_0_000000000_01010 = some (.rdMisal2 0x000A) := by decide
theorem test_decode_rdMisal3 : decodeTableWord 16 0b0_0_111111111_11111 = some (.rdMisal3 0x3FFF) := by decide
theorem test_decode_wrMisal1 : decodeTableWord 16 0b1_0_000000000_00001 = some (.wrMisal1 0x0001 0) := by decide
theorem test_decode_wrMisal2 : decodeTableWord 16 0b1_0_000000000_10010 = some (.wrMisal2 0x0012 0) := by decide
theorem test_decode_wrMisal3 : decodeTableWord 16 0b1_0_000000000_00111 = some (.wrMisal3 0x0007 0) := by decide
theorem test_decode_rdOor : decodeTableWord 16 0b0_1_000000000_00000 = some (.rdOor 0x4000) := by decide
theorem test_decode_wrOor : decodeTableWord 16 0b1_1_000000000_01000 = some (.wrOor 0x4008 0) := by decide

/-- 95_test_vectors.md section 2.1, the key column. -/
theorem test_request_keys :
    Request.key ⟨true, 0x1F50, 0⟩ = 0x9F50 ∧ Request.key ⟨true, 0x0001000000000008, 1⟩ = 0xC008 ∧
    Request.key ⟨false, 0xFFFFFFFFFFFFFFFF, 0⟩ = 0x7FFF ∧ Request.key ⟨true, 0xFFFFFFFFFFFFFFF8, 1⟩ = 0xFFF8 := by
  decide

/- ## One step of each operation (95_test_vectors.md, section and row in each name's comment) -/

-- 2.2: the table of reads and of offset 0x04
theorem test_rdSend : seen 2 (exec (.rdSend 2) (stateOf cfgA 2 ⟨true, .narrow, 1, 7, 9⟩)) =
    some (0, ⟨true, .narrow, 1, 7, 9⟩, [], [⟨.invalidRead, 0x40, 0⟩]) := by decide
theorem test_rdRsvd04 : seen 2 (exec (.rdRsvd04 2) (stateOf cfgA 2 ⟨true, .narrow, 1, 7, 9⟩)) =
    some (0, ⟨true, .narrow, 1, 7, 9⟩, [], [⟨.invalidRead, 0x44, 0⟩]) := by decide
theorem test_wrRsvd04 : seen 2 (exec (.wrRsvd04 2 5) (stateOf cfgA 2 ⟨true, .narrow, 1, 0, 0⟩)) =
    some (0, ⟨true, .narrow, 1, 0, 0⟩, [], [⟨.invalidWrite, 0x44, 5⟩]) := by decide
-- 2.2 rows 5 and 8
theorem test_wrSend_wide_top : seen 2 (exec (.wrSend 2 63) (stateOf cfgA 2 ⟨true, .wide, 1, 5, 0⟩)) =
    some (0, ⟨true, .wide, 1, 5, 0x8000000000000000⟩, [1], []) := by decide
theorem test_wrSend_not_truncated : seen 2 (exec (.wrSend 2 0x100000005) (stateOf cfgA 2 ⟨true, .wide, 1, 0, 0⟩)) =
    some (0, ⟨true, .wide, 1, 0, 0⟩, [], [⟨.sendRange, 0x40, 0x100000005⟩]) := by decide
-- 2.2 rows 11, 13, 14, 16 and 18
theorem test_wrSend_tests_in_order :
    seen 2 (exec (.wrSend 2 99) (stateOf cfgA 2 ⟨false, .narrow, 9, 0, 0⟩)) =
      some (0, ⟨false, .narrow, 9, 0, 0⟩, [], []) ∧
    seen 2 (exec (.wrSend 2 99) (stateOf cfgA 2 ⟨true, .narrow, 9, 0, 0⟩)) =
      some (0, ⟨true, .narrow, 9, 0, 0⟩, [], [⟨.targetNotFound, 0x40, 0x63⟩]) ∧
    seen 2 (exec (.wrSend 2 5) (stateOf cfgB 2 ⟨true, .narrow, 5, 0, 0⟩)) =
      some (0, ⟨true, .narrow, 5, 0, 0⟩, [], [⟨.targetUnwired, 0x40, 5⟩]) :=
  ⟨by decide, by decide, by decide⟩
theorem test_wrSend_lines :
    seen 2 (exec (.wrSend 2 2) (stateOf cfgC 2 ⟨true, .narrow, 17, 0, 0⟩)) =
      some (0, ⟨true, .narrow, 17, 4, 0⟩, [1], []) ∧
    seen 2 (exec (.wrSend 2 2) (stateOf cfgC 2 ⟨true, .narrow, 3, 0, 0⟩)) =
      some (0, ⟨true, .narrow, 3, 0, 0⟩, [], [⟨.targetUnwired, 0x40, 2⟩]) := by decide
-- 2.3 rows 3, 2, 4, 7 and 8
theorem test_rdLow : seen 3 (exec (.rdLow 3) (stateOf cfgA 3 ⟨false, .wide, 0xABCD, 0, 0⟩)) =
    some (0xABCD0002, ⟨false, .wide, 0xABCD, 0, 0⟩, [], []) := by decide
theorem test_wrLow : seen 3 (exec (.wrLow 3 0xFFFFFFFFABCDFFFE) (State.construct cfgA)) =
    some (0, ⟨false, .wide, 0xABCD, 0, 0⟩, [], []) := by decide
theorem test_wrLow_drops_bits_15_to_2 :
    seen 3 (exec (.wrLow 3 0xFFFD) (stateOf cfgA 3 ⟨false, .wide, 0xABCD, 0, 0⟩)) =
    some (0, ⟨true, .narrow, 0, 0, 0⟩, [], []) := by decide
theorem test_rdLowHi : seen 3 (exec (.rdLowHi 3) (stateOf cfgA 3 ⟨true, .wide, 7, 0, 0⟩)) =
    some (0, ⟨true, .wide, 7, 0, 0⟩, [], []) := by decide
theorem test_wrLowHi : seen 3 (exec (.wrLowHi 3 0xFFFFFFFFFFFFFFFF) (stateOf cfgA 3 ⟨true, .wide, 7, 0, 0⟩)) =
    some (0, ⟨true, .wide, 7, 0, 0⟩, [], []) := by decide
-- 2.4 rows 2, 3, 6, 7, 4, 5, 9 and 12
theorem test_rdHigh_narrow : seen 5 (exec (.rdHigh 5) (stateOf cfgA 5 ⟨false, .narrow, 0, 0x20, 0xAAAABBBBCCCCDDDD⟩)) =
    some (0x20, ⟨false, .narrow, 0, 0x20, 0xAAAABBBBCCCCDDDD⟩, [], []) := by decide
theorem test_rdHigh_wide : seen 5 (exec (.rdHigh 5) (stateOf cfgA 5 ⟨false, .wide, 0, 0x20, 0xAAAABBBBCCCCDDDD⟩)) =
    some (0xAAAABBBBCCCCDDDD, ⟨false, .wide, 0, 0x20, 0xAAAABBBBCCCCDDDD⟩, [], []) := by decide
theorem test_wrHigh_narrow : seen 5 (exec (.wrHigh 5 0xFFFFFFFF000000FF) (stateOf cfgA 5 ⟨true, .narrow, 0, 0x20, 1⟩)) =
    some (0, ⟨true, .narrow, 0, 0xFF, 1⟩, [], []) := by decide
theorem test_wrHigh_wide : seen 5 (exec (.wrHigh 5 0xFFFFFFFF000000FF) (stateOf cfgA 5 ⟨true, .wide, 0, 0x20, 1⟩)) =
    some (0, ⟨true, .wide, 0, 0x20, 0xFFFFFFFF000000FF⟩, [], []) := by decide
theorem test_rdHighHi_narrow :
    seen 5 (exec (.rdHighHi 5) (stateOf cfgA 5 ⟨false, .narrow, 0, 0x20, 0xAAAABBBBCCCCDDDD⟩)) =
    some (0xAAAABBBB, ⟨false, .narrow, 0, 0x20, 0xAAAABBBBCCCCDDDD⟩, [], []) := by decide
theorem test_rdHighHi_wide :
    seen 5 (exec (.rdHighHi 5) (stateOf cfgA 5 ⟨false, .wide, 0, 0x20, 0xAAAABBBBCCCCDDDD⟩)) =
    some (0, ⟨false, .wide, 0, 0x20, 0xAAAABBBBCCCCDDDD⟩, [], [⟨.invalidRead, 0xB4, 0⟩]) := by decide
theorem test_wrHighHi_wide_ors : seen 5 (exec (.wrHighHi 5 0x100) (stateOf cfgA 5 ⟨true, .wide, 0, 0, 0x1DEADBEEF⟩)) =
    some (0, ⟨true, .wide, 0, 0, 0x101DEADBEEF⟩, [], []) := by decide
theorem test_wrHighHi_narrow : seen 5 (exec (.wrHighHi 5 1) (stateOf cfgA 5 ⟨true, .narrow, 0, 0x20, 7⟩)) =
    some (0, ⟨true, .narrow, 0, 0x20, 7⟩, [], [⟨.invalidWrite, 0xB4, 1⟩]) := by decide
-- 2.5 rows 2, 6, 8, 11 and 10
theorem test_rdActive : seen 6 (exec (.rdActive 6) (stateOf cfgA 6 ⟨true, .wide, 0, 0, 0⟩)) =
    some (1, ⟨true, .wide, 0, 0, 0⟩, [], []) := by decide
theorem test_wrActive_two : seen 6 (exec (.wrActive 6 2) (State.construct cfgA)) =
    some (0, ⟨true, .narrow, 0, 0, 0⟩, [], []) := by decide
theorem test_wrActive_top_bit : seen 6 (exec (.wrActive 6 0x8000000000000000) (State.construct cfgA)) =
    some (0, ⟨true, .narrow, 0, 0, 0⟩, [], []) := by decide
theorem test_rdActiveHi : seen 6 (exec (.rdActiveHi 6) (stateOf cfgA 6 ⟨true, .wide, 0, 0, 0⟩)) =
    some (0, ⟨true, .wide, 0, 0, 0⟩, [], []) := by decide
theorem test_wrActiveHi : seen 6 (exec (.wrActiveHi 6 1) (State.construct cfgA)) =
    some (0, ⟨false, .narrow, 0, 0, 0⟩, [], []) := by decide
-- 2.6, slot 0 active before; WR.MISAL3 by R132 (no row of the table)
theorem test_rdMisal1 : seen 0 (exec (.rdMisal1 0x9) (stateOf cfgA 0 ⟨true, .narrow, 0, 0, 0⟩)) =
    some (0, ⟨true, .narrow, 0, 0, 0⟩, [], [⟨.invalidRead, 0x9, 0⟩]) := by decide
theorem test_rdMisal2 : seen 0 (exec (.rdMisal2 0xA) (stateOf cfgA 0 ⟨true, .narrow, 0, 0, 0⟩)) =
    some (0, ⟨true, .narrow, 0, 0, 0⟩, [], [⟨.invalidRead, 0xA, 0⟩]) := by decide
theorem test_rdMisal3 : seen 0 (exec (.rdMisal3 0x13) (stateOf cfgA 0 ⟨true, .narrow, 0, 0, 0⟩)) =
    some (0, ⟨true, .narrow, 0, 0, 0⟩, [], [⟨.invalidRead, 0x13, 0⟩]) := by decide
theorem test_wrMisal1 : seen 0 (exec (.wrMisal1 0x1 5) (stateOf cfgA 0 ⟨true, .narrow, 0, 0, 0⟩)) =
    some (0, ⟨true, .narrow, 0, 0, 0⟩, [], [⟨.invalidWrite, 0x1, 5⟩]) := by decide
theorem test_wrMisal2 : seen 0 (exec (.wrMisal2 0x1A 0) (stateOf cfgA 0 ⟨true, .narrow, 0, 0, 0⟩)) =
    some (0, ⟨true, .narrow, 0, 0, 0⟩, [], [⟨.invalidWrite, 0x1A, 0⟩]) := by decide
theorem test_wrMisal3 : seen 0 (exec (.wrMisal3 0x1B 0) (stateOf cfgA 0 ⟨true, .narrow, 0, 0, 0⟩)) =
    some (0, ⟨true, .narrow, 0, 0, 0⟩, [], [⟨.invalidWrite, 0x1B, 0⟩]) := by decide
theorem test_rdOor : seen 0 (exec (.rdOor 0x4000) (stateOf cfgA 0 ⟨true, .narrow, 0, 0, 0⟩)) =
    some (0, ⟨true, .narrow, 0, 0, 0⟩, [], [⟨.invalidRead, 0x4000, 0⟩]) := by decide
theorem test_wrOor : seen 0 (exec (.wrOor 0x4018 0) (stateOf cfgA 0 ⟨true, .narrow, 0, 0, 0⟩)) =
    some (0, ⟨true, .narrow, 0, 0, 0⟩, [], [⟨.invalidWrite, 0x4018, 0⟩]) := by decide

/-- The host's probe, `RD.SEND 2` (`K = 0x0040`) as the first transaction after reset: one step serves it. -/
theorem test_withFetchWord : seen 2 (step (State.reset.withFetchWord 16 0x0040)) =
    some (0, Slot.zero, [], [⟨.invalidRead, 0x40, 0⟩]) := by decide

/-- Program P4 part (a): after the first transaction served, in either order. -/
theorem test_arbiter_orders :
    seen 1 (step (busState [[.write 0x20 3], [.write 0x20 4]] [0])) = some (0, ⟨true, .narrow, 1, 0x08, 0⟩, [1], []) ∧
    seen 1 (step (busState [[.write 0x20 3], [.write 0x20 4]] [1])) = some (0, ⟨true, .narrow, 1, 0x10, 0⟩, [1], []) := by
  decide

/-- R43: the lowest byte lies at the lowest address, so LOW's bytes 2 and 3 hold the target. -/
theorem test_byte_order : busByte 0x00030001 0 = 0x01 ∧ busByte 0x00030001 2 = 0x03 ∧
    wordOfBytes 0x01 0x00 0x03 0x00 0 0 0 0 = 0x00030001 := by decide

/-- Section 0: LOW of slot 0 is bus address `0x1000_0008` under CFG-A and `0x8000_0028` under CFG-C. -/
theorem test_bus_address : offsetOf cfgA 0x10000008 = some 0x8 ∧ offsetOf cfgC 0x80000028 = some 0x8 ∧
    offsetOf cfgA 0x0FFFFFFF = none := by decide

/- ## Witnesses: concrete states and operands that meet the hypotheses of each statement -/

/-- A state in which a send on slot 2 passes its target tests, with line 3, and `width` as given. -/
def sendState (w : Width) : State := stateOf cfgA 2 ⟨true, w, 3, 0, 0⟩

theorem canSend_sendState (w : Width) : (sendState w).CanSend 2 3 := by
  cases w <;> exact ⟨by decide, by decide, by decide, by decide⟩

theorem witness_DecodeOfEncodeIsTheOperation :
    (Instr.wrLow 511 5).wellFormed = true ∧ (Instr.rdMisal1 0x3FFD).wellFormed = true ∧
    (Instr.wrMisal3 0x0003 9).wellFormed = true ∧ (Instr.rdOor 0x4000).wellFormed = true ∧
    (Instr.wrOor 0xFFFFFFFFFFFFFFFF 9).wellFormed = true := by decide

theorem witness_WindowTestComesFirst :
    0x4000 ≤ (Request.mk false 0x4000 0).off.toNat ∧ 0x4000 ≤ (Request.mk true 0xFFFFFFFFFFFFFFFF 1).off.toNat := by
  decide

theorem witness_DecodeSplitsTheOffset : (0x3FFF : Word).toNat < 0x4000 ∧ (0 : Word).toNat < 0x4000 := by decide

/-- The hypothesis of `Selects` and of the result statements: an offset of each register, first and last slot. -/
theorem witness_register_offsets :
    (0x0000 : Word).toNat = 32 * (0 : SlotIx).toNat + 0x00 ∧ (0x3FE0 : Word).toNat = 32 * (511 : SlotIx).toNat + 0x00 ∧
    (0x0004 : Word).toNat = 32 * (0 : SlotIx).toNat + 0x04 ∧ (0x3FE4 : Word).toNat = 32 * (511 : SlotIx).toNat + 0x04 ∧
    (0x0008 : Word).toNat = 32 * (0 : SlotIx).toNat + 0x08 ∧ (0x3FE8 : Word).toNat = 32 * (511 : SlotIx).toNat + 0x08 ∧
    (0x000C : Word).toNat = 32 * (0 : SlotIx).toNat + 0x0C ∧ (0x3FEC : Word).toNat = 32 * (511 : SlotIx).toNat + 0x0C ∧
    (0x0010 : Word).toNat = 32 * (0 : SlotIx).toNat + 0x10 ∧ (0x3FF0 : Word).toNat = 32 * (511 : SlotIx).toNat + 0x10 ∧
    (0x0014 : Word).toNat = 32 * (0 : SlotIx).toNat + 0x14 ∧ (0x3FF4 : Word).toNat = 32 * (511 : SlotIx).toNat + 0x14 ∧
    (0x0018 : Word).toNat = 32 * (0 : SlotIx).toNat + 0x18 ∧ (0x3FF8 : Word).toNat = 32 * (511 : SlotIx).toNat + 0x18 ∧
    (0x001C : Word).toNat = 32 * (0 : SlotIx).toNat + 0x1C ∧ (0x3FFC : Word).toNat = 32 * (511 : SlotIx).toNat + 0x1C := by
  decide

theorem witness_RdSendIsAnInvalidRead : (0x3FE0 : Word).toNat = 32 * (511 : SlotIx).toNat := by decide

/-- RdHighReturnsTheLiveField, WrHighOverwritesTheLiveField, HighRoundTrips: a slot of each width. -/
theorem witness_widths : ((sendState .narrow).slot 2).width = .narrow ∧ ((sendState .wide).slot 2).width = .wide := by
  decide

theorem witness_RdHighHiIsValidOnlyWhenNarrow : (0x54 : Word).toNat = 32 * (2 : SlotIx).toNat + 0x14 ∧
    ((sendState .narrow).slot 2).width = .narrow ∧ ((sendState .wide).slot 2).width = .wide := by decide

theorem witness_WrHighHiIsValidOnlyWhenWide : (0x3FF4 : Word).toNat = 32 * (511 : SlotIx).toNat + 0x14 ∧
    ((stateOf cfgA 511 ⟨true, .wide, 0, 0, 0⟩).slot 511).width = .wide ∧
    ((stateOf cfgA 511 ⟨true, .narrow, 0, 0, 0⟩).slot 511).width = .narrow := by decide

theorem witness_MisalignedAccessIsInvalid :
    ((0x0001 : Word).toNat < 0x4000 ∧ (0x0001 : Word).toNat % 4 = 1) ∧
    ((0x3FFD : Word).toNat < 0x4000 ∧ (0x3FFD : Word).toNat % 4 = 1) ∧
    ((0x0002 : Word).toNat < 0x4000 ∧ (0x0002 : Word).toNat % 4 = 2) ∧
    ((0x3FFE : Word).toNat < 0x4000 ∧ (0x3FFE : Word).toNat % 4 = 2) ∧
    ((0x0003 : Word).toNat < 0x4000 ∧ (0x0003 : Word).toNat % 4 = 3) ∧
    ((0x3FFF : Word).toNat < 0x4000 ∧ (0x3FFF : Word).toNat % 4 = 3) := by decide

theorem witness_OutOfWindowAccessIsInvalid :
    0x4000 ≤ (0x4000 : Word).toNat ∧ 0x4000 ≤ (0xFFFFFFFFFFFFFFFF : Word).toNat := by decide

theorem witness_SendToInactiveSlotIsNoOp : ((stateOf cfgA 2 ⟨false, .narrow, 9, 0, 0⟩).slot 2).active = false := by
  decide

theorem witness_SendToAbsentHartIsReported :
    (0x40 : Word).toNat = 32 * (2 : SlotIx).toNat ∧ ((stateOf cfgA 2 ⟨true, .narrow, 9, 0, 0⟩).slot 2).active = true ∧
    hartPresent (stateOf cfgA 2 ⟨true, .narrow, 9, 0, 0⟩).cfg
      (((stateOf cfgA 2 ⟨true, .narrow, 9, 0, 0⟩).slot 2).targetHart.setWidth 32) = false := by decide

/-- The target just above the wired harts (hart 4 of CFG-B). -/
theorem witness_SendToUnwiredHartIsReported_above :
    (0x40 : Word).toNat = 32 * (2 : SlotIx).toNat ∧ ((stateOf cfgB 2 ⟨true, .narrow, 4, 0, 0⟩).slot 2).active = true ∧
    hartPresent (stateOf cfgB 2 ⟨true, .narrow, 4, 0, 0⟩).cfg
      (((stateOf cfgB 2 ⟨true, .narrow, 4, 0, 0⟩).slot 2).targetHart.setWidth 32) = true ∧
    cfgB.hartIdBase.toNat + cfgB.numHarts.toNat ≤
      ((stateOf cfgB 2 ⟨true, .narrow, 4, 0, 0⟩).slot 2).targetHart.toNat := by decide

/-- The target just below the wired harts (hart 15 of CFG-C). -/
theorem witness_SendToUnwiredHartIsReported_below :
    ((stateOf cfgC 2 ⟨true, .narrow, 15, 0, 0⟩).slot 2).active = true ∧
    hartPresent (stateOf cfgC 2 ⟨true, .narrow, 15, 0, 0⟩).cfg
      (((stateOf cfgC 2 ⟨true, .narrow, 15, 0, 0⟩).slot 2).targetHart.setWidth 32) = true ∧
    ((stateOf cfgC 2 ⟨true, .narrow, 15, 0, 0⟩).slot 2).targetHart.toNat < cfgC.hartIdBase.toNat := by decide

theorem witness_SendOutOfRangeIsRejected_narrow : (0x40 : Word).toNat = 32 * (2 : SlotIx).toNat ∧
    (sendState .narrow).CanSend 2 3 ∧ ((sendState .narrow).slot 2).width = .narrow ∧ 32 ≤ (32 : Word).toNat :=
  ⟨by decide, canSend_sendState _, by decide, by decide⟩

theorem witness_SendOutOfRangeIsRejected_wide : (0x40 : Word).toNat = 32 * (2 : SlotIx).toNat ∧
    (sendState .wide).CanSend 2 3 ∧ ((sendState .wide).slot 2).width = .wide ∧ 64 ≤ (64 : Word).toNat :=
  ⟨by decide, canSend_sendState _, by decide, by decide⟩

/-- SendSetsOneBitAndRaisesOneEdge, OnlyCompletedSendsRaiseEdges and ClearLosesASendServedInBetween, Narrow. -/
theorem witness_SendSetsOneBitAndRaisesOneEdge_narrow : (sendState .narrow).CanSend 2 3 ∧
    ((sendState .narrow).slot 2).width = .narrow ∧ (31 : Word).toNat < 32 ∧
    (31 : Word).toNat < ((sendState .narrow).slot 2).liveBits :=
  ⟨canSend_sendState _, by decide, by decide, by decide⟩

/-- The same, Wide. -/
theorem witness_SendSetsOneBitAndRaisesOneEdge_wide : (sendState .wide).CanSend 2 3 ∧
    ((sendState .wide).slot 2).width = .wide ∧ (63 : Word).toNat < 64 ∧
    (63 : Word).toNat < ((sendState .wide).slot 2).liveBits :=
  ⟨canSend_sendState _, by decide, by decide, by decide⟩

theorem witness_SendsCollectBitsAndEachRaises : (sendState .narrow).CanSend 2 3 ∧
    ∀ b ∈ ([0, 5, 31, 5] : List Word), b.toNat < ((sendState .narrow).slot 2).liveBits := by
  have h : ((sendState .narrow).slot 2).liveBits = 32 := by decide
  exact ⟨canSend_sendState _, by rw [h]; simp⟩

theorem witness_ValidConfigurationResolvesExactlyWiredHarts :
    configValid cfgA = true ∧ configValid cfgB = true ∧ configValid cfgC = true ∧
    configValid Config.resetConfiguration = true := by decide

theorem witness_LinesAreWiredToConsecutiveHarts :
    configValid cfgC = true ∧ 0 < cfgC.numHarts.toNat ∧ 1 < cfgC.numHarts.toNat := by decide

theorem witness_EveryTransactionCompletes : configValid State.reset.cfg = true := by decide

theorem witness_ReadsChangeNoSlot : (Instr.rdHighHi 2).op.isWrite = false ∧ (Instr.rdOor 0x4000).op.isWrite = false := by
  decide

theorem witness_WritesAreIdempotentOnTheSlots :
    (Instr.wrSend 2 5).op.isWrite = true ∧ (Instr.wrOor 0x4000 5).op.isWrite = true := by decide

theorem witness_OnlyTheAddressedSlotChanges :
    (Instr.wrHigh 2 5).slot? ≠ some 3 ∧ (Instr.wrOor 0x4000 5).slot? ≠ some 0 := by decide

theorem witness_InvalidAccessesAreExactlyTheList :
    isInvalid (decode ⟨true, 0x48, 0xFFFF⟩) (sendState .narrow) = false ∧ isSend ⟨true, 0x48, 0xFFFF⟩ = false ∧
    isSend ⟨true, 0x60, 5⟩ = true ∧ ((sendState .narrow).slot (slotIndex 0x60)).active = false := by decide

theorem witness_InvalidAccessesAloneEmitInvalidEvents :
    isInvalid (decode ⟨false, 0x54, 0⟩) (sendState .wide) = true ∧
    isInvalid (decode ⟨true, 0x54, 1⟩) (sendState .wide) = false ∧
    isInvalid (decode ⟨true, 0x40, 64⟩) (sendState .wide) = false := by decide

theorem witness_InvalidStreamHasNoEffect : ∀ i ∈ [Instr.rdSend 2, .wrRsvd04 2 5, .rdHighHi 2, .wrMisal1 1 5, .rdOor 0x4000],
    isInvalid i (sendState .wide) = true := by decide

theorem witness_OnlyCompletedSendsRaiseEdges_idle :
    State.reset.nextTransaction = none ∧ step State.reset = .next State.reset := ⟨by decide, rfl⟩

/-- PendingBitsChangeOnlyByTheirRules: an operation that sets and one that clears a bit of each field. -/
theorem witness_PendingBitsChangeOnlyByTheirRules :
    seen 2 (exec (.wrSend 2 31) (sendState .narrow)) = some (0, ⟨true, .narrow, 3, 0x80000000, 0⟩, [3], []) ∧
    seen 2 (exec (.wrHigh 2 0) (stateOf cfgA 2 ⟨true, .narrow, 3, 0x80000000, 0⟩)) =
      some (0, ⟨true, .narrow, 3, 0, 0⟩, [], []) ∧
    seen 2 (exec (.wrHighHi 2 1) (sendState .wide)) = some (0, ⟨true, .wide, 3, 0, 0x100000000⟩, [], []) ∧
    seen 2 (exec (.wrHigh 2 0) (stateOf cfgA 2 ⟨true, .wide, 3, 0, 0x100000000⟩)) =
      some (0, ⟨true, .wide, 3, 0, 0⟩, [], []) := ⟨by decide, by decide, by decide, by decide⟩

theorem witness_RaisedEdgeFindsItsBitSet : ∃ t, exec (.wrSend 2 31) (sendState .narrow) = .next t ∧
    t.edges ≠ (sendState .narrow).edges := ⟨_, rfl, by decide⟩

theorem witness_DifferentSlotsCommute :
    (Instr.wrSend 2 31).slot? = some 2 ∧ (Instr.wrLow 3 1).slot? = some 3 ∧ (2 : SlotIx) ≠ 3 := by decide

theorem witness_OutputsDoNotFeedBack :
    (State.reset.raise 1).cfg = State.reset.cfg ∧ (State.reset.raise 1).slots = State.reset.slots ∧
    State.reset.raise 1 ≠ State.reset := by decide

theorem witness_ConfigurationNeverChanges : ∃ t u, exec (.wrLow 2 1) State.reset = .next t ∧
    step (State.reset.withFetchWord 16 0x8048) = .next u := ⟨_, _, rfl, rfl⟩

/-- The outcome of `create`: the state or the error. -/
def outcomeOf (r : Except ConfigError State) : Sum ConfigError State :=
  match r with
  | .ok s => .inr s
  | .error e => .inl e

theorem witness_CreateSucceedsExactlyOnValidArguments :
    outcomeOf (create 0x10000000 0 4 [0, 1, 2, 3] [4]) = .inr (State.construct cfgA) := by decide

/-- R171: an error of each kind. -/
theorem test_create_errors :
    outcomeOf (create 0x10000000 0 513 [0, 1, 2, 3] []) = .inl .tooManyHarts ∧
    outcomeOf (create 0x10000010 0 4 [0, 1, 2, 3] []) = .inl .misalignedBase ∧
    outcomeOf (create 0x10000000 0 0 [0, 1, 2, 3] []) = .inl .noHarts ∧
    outcomeOf (create 0x10000000 0xFFFFFFFF 2 [] []) = .inl .hartIdWrap ∧
    outcomeOf (create 0xFFFFFFFFFFFFC020 0 4 [0, 1, 2, 3] []) = .inl .windowWrap ∧
    outcomeOf (create 0x10000000 0 4 [0, 1, 2] []) = .inl .wiredHartAbsent ∧
    outcomeOf (create 0x10000000 0 4 [0, 1, 2, 3] [3]) = .inl .alreadyClaimed := by decide

theorem witness_BusAddressesReachTheBlockAsOffsets :
    (0x0FFFFFFF : Word).toNat < State.reset.cfg.baseAddress.toNat ∧
    State.reset.cfg.baseAddress.toNat ≤ (0x10000000 : Word).toNat := by decide

theorem witness_StepRunsTheDecodedOperation : ∃ t,
    configValid (busState [[.write 0x20 3], [.write 0x20 4]] [1]).cfg = true ∧
    (busState [[.write 0x20 3], [.write 0x20 4]] [1]).nextTransaction = some (1, .write 0x20 4) ∧
    exec (decode (.write 0x20 4)) (busState [[.write 0x20 3], [.write 0x20 4]] [1]) = .next t :=
  ⟨_, by decide, by decide, rfl⟩

theorem witness_StepRunsTheDecodedOperation_idle :
    configValid State.reset.cfg = true ∧ State.reset.nextTransaction = none := by decide

theorem witness_StepRunsTheDecodedOperation_refused :
    configValid (State.construct ⟨0x10000000, 0, 0, []⟩).cfg = false := by decide

theorem witness_ArbiterMayServeAnyMaster :
    (busState [[.write 0x20 3], [], [.write 0x20 4, .read 0x30]] []).queue 2 = .write 0x20 4 :: [.read 0x30] := by decide

theorem witness_EachMasterIsServedInItsOwnOrder : ∃ t,
    step (busState [[.write 0x20 3], [.write 0x20 4]] [1]) = .next t ∧
    0 < (busState [[.write 0x20 3], [.write 0x20 4]] [1]).outstanding := ⟨_, rfl, by decide⟩

theorem witness_EveryIssuedTransactionIsServed :
    configValid (busState [[.write 0x20 3], [.write 0x20 4]] []).cfg = true ∧
    (busState [[.write 0x20 3], [.write 0x20 4]] []).outstanding = 2 := by decide

theorem witness_ConcurrentSendsLoseNoBit :
    configValid (busState [[.write 0x20 3, .write 0x20 31], [.write 0x20 4]] []).cfg = true ∧
    (busState [[.write 0x20 3, .write 0x20 31], [.write 0x20 4]] []).CanSend 1 1 ∧
    ∀ q ∈ (busState [[.write 0x20 3, .write 0x20 31], [.write 0x20 4]] []).masters, ∀ r ∈ q,
      decode r = .wrSend 1 r.wdata ∧
      r.wdata.toNat < ((busState [[.write 0x20 3, .write 0x20 31], [.write 0x20 4]] []).slot 1).liveBits :=
  ⟨by decide, ⟨by decide, by decide, by decide, by decide⟩, by decide⟩

/-- A state with an edge, an event and a transaction outstanding that meets the invariant. -/
def invState : State where
  cfg := cfgA
  slots := [(1, ⟨true, .narrow, 1, 0x08, 0⟩)]
  rdata := 0
  edges := [1]
  diags := [⟨.sendRange, 0x20, 32⟩, ⟨.invalidRead, 0x4000, 0⟩]
  masters := [[.write 0x20 4]]
  choices := []
  served := [⟨0, .write 0x20 3, 0⟩, ⟨0, .write 0x20 32, 0⟩, ⟨0, .read 0x4000, 0⟩]

theorem witness_StepKeepsTheInvariant : invState.Inv ∧ invState.outstanding = 1 :=
  ⟨⟨by decide, by decide, by decide, by decide, by decide, by decide⟩, by decide⟩

theorem witness_ConstructionHasTheInvariant : configValid cfgC = true := by decide

end Sys2Proof.Tests
end

section
/-! PROOF. The configuration is immutable (R12). -/

namespace Sys2Proof.Machine

/-- The inversion of `exec`: an operation that goes on leaves its effect, with at most one edge or event (R80, R141). -/
theorem exec_next_eq_apply {i : Instr} {s t : State} (h : exec i s = .next t) :
    ∃ e : Effect, t = e.apply i s ∧ e.edges.length + e.diags.length ≤ 1 := by
  obtain ⟨e, he, hlen⟩ := exec_effect i s
  have hs : exec i s = .next (e.apply i s) := he s rfl fun _ _ => rfl
  rw [h] at hs
  exact ⟨e, Host.Outcome.next.inj hs, hlen⟩

theorem exec_cfg {i : Instr} {s t : State} (h : exec i s = .next t) : t.cfg = s.cfg := by
  obtain ⟨e, rfl, -⟩ := exec_next_eq_apply h
  exact e.apply_cfg i s

theorem step_cfg {s t : State} (h : step s = .next t) : t.cfg = s.cfg := by
  obtain ⟨-, ⟨-, rfl⟩ | ⟨m, r, u, -, hu, rfl⟩⟩ := step_cases h
  · rfl
  · rw [State.complete_cfg, exec_cfg hu]

/-- Settles O49: an operation's effect holds no configuration to write, and a step is an operation and its completion,
or idle. -/
theorem configurationNeverChanges : Obligations.ConfigurationNeverChanges :=
  ⟨fun _ _ _ => exec_cfg, fun _ _ => step_cfg⟩

end Sys2Proof.Machine
end

section
/-! PROOF. Reads change no slot and are idempotent (R47). -/

namespace Sys2Proof.Machine

/-- The inversion of `exec` on reads (R47, R130): an invalid access is the one policy of R130 at the request's offset,
any other read only returns a value. -/
theorem exec_read_cases {i : Instr} (s : State) (h : i.op.isWrite = false) :
    (isInvalid i s = true ∧ exec i s = invalidRead (encode i).off s) ∨
    (isInvalid i s = false ∧ ∃ v, exec i s = readDone v s) := by
  cases i with
  | rdSend | rdRsvd04 | rdMisal1 | rdMisal2 | rdMisal3 | rdOor => exact .inl ⟨rfl, rfl⟩
  | rdLow | rdLowHi | rdHigh | rdActive | rdActiveHi => exact .inr ⟨rfl, _, rfl⟩
  | rdHighHi j =>
    cases hw : (s.slot j).width with
    | narrow =>
      exact .inr ⟨by simp [isInvalid, hw], zext32 (highHalf (s.slot j).pendingWide), by
        simp only [exec, execRdHighHi, hw]⟩
    | wide => exact .inl ⟨by simp [isInvalid, hw], by simp only [exec, execRdHighHi, hw, encode, Request.read_off]⟩
  | wrSend | wrRsvd04 | wrLow | wrLowHi | wrHigh | wrHighHi | wrActive | wrActiveHi | wrMisal1 | wrMisal2 | wrMisal3
  | wrOor => cases h

/-- What a read leaves: the register file, the configuration and the edges, and one event exactly when it is invalid. -/
theorem exec_read {i : Instr} (s : State) (h : i.op.isWrite = false) :
    ∃ t, exec i s = .next t ∧ t.cfg = s.cfg ∧ t.slots = s.slots ∧ t.edges = s.edges ∧
      t.diags = s.diags ++ (if isInvalid i s then [⟨.invalidRead, (encode i).off, 0⟩] else []) := by
  obtain ⟨hi, hx⟩ | ⟨hi, v, hx⟩ := exec_read_cases s h
  · exact ⟨_, hx, rfl, rfl, rfl, by simp [hi]⟩
  · exact ⟨_, hx, rfl, rfl, rfl, by simp [hi]⟩

/-- An operation's response depends on the configuration and the register file alone. -/
theorem exec_rdata_congr {i : Instr} {s t u : State} (h : exec i s = .next t) (hcfg : u.cfg = s.cfg)
    (hslots : u.slots = s.slots) : ∃ v, exec i u = .next v ∧ v.rdata = t.rdata := by
  obtain ⟨e, he, -⟩ := exec_effect i s
  have hs : exec i s = .next (e.apply i s) := he s rfl fun _ _ => rfl
  have hu : exec i u = .next (e.apply i u) := he u hcfg fun _ _ => by rw [State.slot, State.slot, hslots]
  obtain rfl := Host.Outcome.next.inj (h.symm.trans hs)
  exact ⟨_, hu, rfl⟩

/-- Settles O38: the state a read leaves agrees with the one before on all that the repeated read looks at. -/
theorem readsChangeNoSlot : Obligations.ReadsChangeNoSlot := by
  intro i s h
  obtain ⟨t, ht, hcfg, hslots, hedges, hdiags⟩ := exec_read s h
  obtain ⟨u, hu, hrdata⟩ := exec_rdata_congr ht hcfg hslots
  exact ⟨t, u, ht, hslots, hedges, hdiags, hu, hrdata⟩

end Sys2Proof.Machine
end

section
/-! PROOF. The window test comes first (R64). -/

namespace Sys2Proof

/-- R64, R70: outside the window the request's direction alone selects the operation. -/
theorem decode_of_outOfWindow {r : Request} (h : outOfWindow r.off = true) :
    decode r = if r.we then .wrOor r.off r.wdata else .rdOor r.off := by
  have hin : inWindow r.off = false := by simpa [outOfWindow_eq_not_inWindow] using h
  rw [decode, hin]
  rfl

/-- R64: no slot is formed from an offset outside the window. -/
theorem decode_slot?_of_outOfWindow {r : Request} (h : outOfWindow r.off = true) : (decode r).slot? = none := by
  rw [decode_of_outOfWindow h]
  cases r.we with
  | false => rfl
  | true => rfl

end Sys2Proof

namespace Sys2Proof.Machine

/-- An operation addressed to no slot has an effect that keeps the register file and commutes with its replacement. -/
theorem Effect.apply_of_slot?_none (e : Effect) {i : Instr} (hi : i.slot? = none) (s : State) :
    (e.apply i s).slots = s.slots ∧
    ∀ table, e.apply i { s with slots := table } = { e.apply i s with slots := table } := by
  have hkeep : ∀ t, writeBack i.slot? e.slot t = t := fun t => by rw [hi]; rfl
  exact ⟨hkeep s.slots, fun table => by simp only [Effect.apply, hkeep]⟩

/-- An operation addressed to no slot neither reads nor writes the register file. -/
theorem exec_of_slot?_none {i : Instr} (hi : i.slot? = none) (s : State) :
    ∃ t, exec i s = .next t ∧ t.slots = s.slots ∧
      ∀ table, exec i { s with slots := table } = .next { t with slots := table } := by
  obtain ⟨e, he, -⟩ := exec_effect i s
  obtain ⟨hslots, hreplace⟩ := e.apply_of_slot?_none hi s
  have hread : ∀ u : State, u.cfg = s.cfg → exec i u = .next (e.apply i u) := fun u hcfg =>
    he u hcfg fun j hj => by simp [hi] at hj
  refine ⟨_, hread s rfl, hslots, fun table => ?_⟩
  exact (hread { s with slots := table } rfl).trans (congrArg Host.Outcome.next (hreplace table))

/-- Settles O5: outside the window the decoded operation is addressed to no slot. -/
theorem windowTestComesFirst : Obligations.WindowTestComesFirst := by
  intro r h
  have hout : outOfWindow r.off = true := decide_eq_true h
  exact ⟨decode_of_outOfWindow hout, exec_of_slot?_none (decode_slot?_of_outOfWindow hout)⟩

end Sys2Proof.Machine
end

section
/-! PROOF. The requests of a register of a slot (R60 to R63). -/

namespace Sys2Proof

/-- R21: the offsets of slot registers are exactly the values `slotOffset` builds. -/
theorem eq_slotOffset_of_toNat {off : Word} {i : SlotIx} {reg : RegOff}
    (h : off.toNat = 32 * i.toNat + reg.toNat) : off = slotOffset i reg :=
  BitVec.eq_of_toNat_eq (h.trans (slotOffset_toNat i reg).symm)

theorem decode_read_slotOffset (i : SlotIx) (reg : RegOff) (w : Word) :
    decode ⟨false, slotOffset i reg, w⟩ = decodeRead (slotOffset i reg) := by
  simp [decode]

/-- The slot index of a register's offset is the slot's, and `reg` alone selects the row (R70). -/
theorem decodeRead_regSend (i : SlotIx) : decodeRead (slotOffset i Config.regSend) = .rdSend i := by
  have hsel : RegSel.ofReg Config.regSend = .send := by decide
  simp only [decodeRead, regSelect_slotOffset, hsel, slotIndex_slotOffset]

end Sys2Proof

namespace Sys2Proof.Machine

/-- A register's operation is selected as `Selects` says once its offset decodes to it and its row's match is the
register's key. -/
theorem Selects.of_slotOffset {we : Bool} {reg : RegOff} {key : Key} {x : SlotIx → Word → Instr}
    (hdecode : ∀ i w, decode ⟨we, slotOffset i reg, w⟩ = x i w)
    (hkey : BitVec.ofBool we ++ 0#1 ++ (0#9 ++ reg) = key) : Selects we reg.toNat key x := by
  intro i off w hoff
  obtain rfl := eq_slotOffset_of_toNat hoff
  exact ⟨hdecode i w, (Laws.EncodesInRow.reg_row rfl).trans hkey⟩

/-- Settles O8: RD.SEND is the one policy of R130 at the slot's SEND offset. -/
theorem rdSendIsAnInvalidRead : Obligations.RdSendIsAnInvalidRead := by
  refine ⟨Selects.of_slotOffset (reg := Config.regSend) (fun i w => ?_) (by decide), fun i off s hoff => ?_⟩
  · rw [decode_read_slotOffset, decodeRead_regSend]
  · obtain rfl : off = slotOffset i Config.regSend := eq_slotOffset_of_toNat hoff
    exact invalidRead_eq _ s

end Sys2Proof.Machine
end

section
/-! PROOF. WR.SEND to an inactive slot, and sequences of in-range sends (R80 to R88). -/

namespace Sys2Proof.Machine

/-- R81: step 1 of R80 ends the send. -/
theorem exec_wrSend_of_inactive {i : SlotIx} {s : State} (b : Word) (h : (s.slot i).active = false) :
    exec (.wrSend i b) s = .next (s.respond 0) := by
  simp [exec, execWrSend, h]

/-- Settles O21: step 1 of R80 tests `active` before anything else. -/
theorem sendToInactiveSlotIsNoOp : Obligations.SendToInactiveSlotIsNoOp :=
  fun _ b _ h => exec_wrSend_of_inactive b h

section SetLiveBit
variable (v : Slot) (b : Word)

@[simp] theorem Slot.setLiveBit_active : (v.setLiveBit b).active = v.active := by
  unfold Slot.setLiveBit; split <;> rfl

@[simp] theorem Slot.setLiveBit_width : (v.setLiveBit b).width = v.width := by
  unfold Slot.setLiveBit; split <;> simp [*]

@[simp] theorem Slot.setLiveBit_targetHart : (v.setLiveBit b).targetHart = v.targetHart := by
  unfold Slot.setLiveBit; split <;> rfl

@[simp] theorem Slot.setLiveBit_liveBits : (v.setLiveBit b).liveBits = v.liveBits := by
  simp [Slot.liveBits]

end SetLiveBit

/-- R69 (6): a one shifted to a position in range is that bit alone. -/
theorem getLsbD_one_shiftLeft {n b : Nat} (hb : b < n) (p : Nat) :
    ((1 : BitVec n) <<< b).getLsbD p = decide (p = b) := by
  change (BitVec.twoPow n b).getLsbD p = decide (p = b)
  simp [BitVec.getLsbD_twoPow, hb, eq_comm]

/-- R69 (2): zero-extension keeps every bit, those above the field being 0. -/
theorem getLsbD_zext32 (x : BitVec 32) (p : Nat) : (zext32 x).getLsbD p = x.getLsbD p := by
  rw [zext32, BitVec.getLsbD_setWidth, Bool.and_eq_right_iff_imp, decide_eq_true_eq]
  intro h
  have hp := BitVec.lt_of_getLsbD h
  omega

/-- R84: an in-range send sets the bit it names and no other bit of the live field. -/
theorem Slot.getLsbD_live_setLiveBit {v : Slot} {b : Word} (hb : b.toNat < v.liveBits) (p : Nat) :
    (v.setLiveBit b).live.getLsbD p = (v.live.getLsbD p || decide (p = b.toNat)) := by
  cases hw : v.width with
  | wide =>
    have hb64 : b.toNat < 64 := by simpa [Slot.liveBits, hw] using hb
    simp only [Slot.live, Slot.setLiveBit, hw, BitVec.getLsbD_or, getLsbD_one_shiftLeft hb64]
  | narrow =>
    have hb32 : b.toNat < 32 := by simpa [Slot.liveBits, hw] using hb
    simp only [Slot.live, Slot.setLiveBit, hw, getLsbD_zext32, BitVec.getLsbD_or, getLsbD_one_shiftLeft hb32]

@[simp] theorem zextHart_toNat (h : BitVec 16) : (zextHart h).toNat = h.toNat :=
  BitVec.toNat_setWidth_of_le (by decide)

/-- R82: the line the send algorithm finds for a wired target. -/
theorem State.CanSend.lineOf_eq {s : State} {i : SlotIx} {k : Nat} (h : s.CanSend i k) :
    lineOf s.cfg (zextHart (s.slot i).targetHart) = some k := by
  have htarget := h.target
  have hwired := h.wired
  rw [lineOf, zextHart_toNat, htarget, if_pos (by omega), Nat.add_sub_cancel_left]

/-- The state after a send on slot `i` that passes every test of R80, with line `k`. -/
def State.afterSend (s : State) (i : SlotIx) (k : Nat) (b : Word) : State :=
  ((s.setSlot i ((s.slot i).setLiveBit b)).raise k).respond 0

section AfterSend
variable {s : State} {i : SlotIx} {k : Nat}

theorem State.CanSend.exec_wrSend {b : Word} (h : s.CanSend i k) (hb : b.toNat < (s.slot i).liveBits) :
    exec (.wrSend i b) s = .next (s.afterSend i k b) := by
  have hrange : (s.slot i).inRange b = true := decide_eq_true hb
  simp [exec, execWrSend, h.active, h.present, h.lineOf_eq, hrange, State.afterSend]

@[simp] theorem State.slot_afterSend (b : Word) : (s.afterSend i k b).slot i = (s.slot i).setLiveBit b := by
  simp [State.afterSend]

@[simp] theorem State.afterSend_cfg (b : Word) : (s.afterSend i k b).cfg = s.cfg := rfl

@[simp] theorem State.afterSend_edges (b : Word) : (s.afterSend i k b).edges = s.edges ++ [k] := rfl

@[simp] theorem State.afterSend_diags (b : Word) : (s.afterSend i k b).diags = s.diags := rfl

/-- A send leaves what its own tests look at, so the next one passes them too. -/
theorem State.CanSend.afterSend (h : s.CanSend i k) (b : Word) : (s.afterSend i k b).CanSend i k where
  active := by simpa using h.active
  present := by simpa using h.present
  target := by simpa using h.target
  wired := h.wired

end AfterSend

theorem runOps_cons {i : Instr} {s t : State} (h : exec i s = .next t) (is : List Instr) :
    runOps (i :: is) s = runOps is t := by
  rw [runOps, h]

/-- Settles O26, by induction on the bit positions sent: each send adds its bit and its edge (R88) and leaves the slot
ready for the next. -/
theorem sendsCollectBitsAndEachRaises : Obligations.SendsCollectBitsAndEachRaises := by
  intro i k bs
  induction bs with
  | nil => exact fun s _ _ => ⟨s, rfl, by simp⟩
  | cons b bs ih =>
    intro s hs hbs
    obtain ⟨hb, hrest⟩ := List.forall_mem_cons.mp hbs
    obtain ⟨t, ht, hlive, hedges, hdiags⟩ := ih (s.afterSend i k b) (hs.afterSend b) (by simpa using hrest)
    refine ⟨t, (runOps_cons (hs.exec_wrSend hb) _).trans ht, fun p => ?_, ?_, hdiags⟩
    · rw [hlive, State.slot_afterSend, Slot.getLsbD_live_setLiveBit hb]
      simp [or_assoc, eq_comm (a := p)]
    · simp [hedges, List.replicate_succ]

end Sys2Proof.Machine
end

section
/-! PROOF. RD.LOW and the high halves of LOW and ACTIVE (R100, R102, R103, R122, R123). -/

namespace Sys2Proof

theorem decode_write_slotOffset (i : SlotIx) (reg : RegOff) (w : Word) :
    decode ⟨true, slotOffset i reg, w⟩ = decodeWrite (slotOffset i reg) w := by
  simp [decode]

@[simp] theorem RegSel.ofReg_regLow : RegSel.ofReg Config.regLow = .low := by decide
@[simp] theorem RegSel.ofReg_regLowHi : RegSel.ofReg Config.regLowHi = .lowHi := by decide
@[simp] theorem RegSel.ofReg_regActiveHi : RegSel.ofReg Config.regActiveHi = .activeHi := by decide

end Sys2Proof

namespace Sys2Proof.Machine

/-- A read of a register of a slot selects what the read column of R70 has for it. -/
theorem Selects.of_decodeRead {reg : RegOff} {key : Key} {x : SlotIx → Instr}
    (hdecode : ∀ i, decodeRead (slotOffset i reg) = x i) (hkey : 0#1 ++ 0#1 ++ (0#9 ++ reg) = key) :
    Selects false reg.toNat key (fun i _ => x i) :=
  .of_slotOffset (fun i w => (decode_read_slotOffset i reg w).trans (hdecode i)) hkey

/-- A write of a register of a slot selects what the write column of R70 has for it. -/
theorem Selects.of_decodeWrite {reg : RegOff} {key : Key} {x : SlotIx → Word → Instr}
    (hdecode : ∀ i w, decodeWrite (slotOffset i reg) w = x i w) (hkey : 1#1 ++ 0#1 ++ (0#9 ++ reg) = key) :
    Selects true reg.toNat key x :=
  .of_slotOffset (fun i w => (decode_write_slotOffset i reg w).trans (hdecode i w)) hkey

theorem Width.bit_eq_true_iff (w : Width) : w.bit = true ↔ w = .wide := by
  cases w with
  | narrow => decide
  | wide => decide

section PackLow
variable (v : Slot)

/-- R100 with the zero-extension written as the 32 zero bits it puts above the fields. -/
theorem packLow_eq_append : packLow v =
    0#32 ++ (v.targetHart ++ 0#14 ++ BitVec.ofBool v.width.bit ++ BitVec.ofBool v.active) :=
  BitVec.setWidth_eq_append (by decide)

theorem packLow_upperHalf : (packLow v).extractLsb' 32 32 = 0 :=
  packLow_eq_append v ▸ BitVec.extractLsb'_append_eq_left

theorem packLow_targetHart : (packLow v).extractLsb' 16 16 = v.targetHart := by
  rw [packLow_eq_append, BitVec.extractLsb'_append_eq_of_add_le (by decide),
    BitVec.extractLsb'_append_eq_of_le (by decide), BitVec.extractLsb'_append_eq_of_le (by decide),
    BitVec.extractLsb'_append_eq_left]

theorem packLow_gap : (packLow v).extractLsb' 2 14 = 0 := by
  rw [packLow_eq_append, BitVec.extractLsb'_append_eq_of_add_le (by decide),
    BitVec.extractLsb'_append_eq_of_le (by decide), BitVec.extractLsb'_append_eq_of_le (by decide),
    BitVec.extractLsb'_append_eq_right]
  rfl

theorem packLow_width : (packLow v).getLsbD 1 = v.width.bit := by
  rw [packLow_eq_append, BitVec.getLsbD_append, if_pos (by decide), BitVec.getLsbD_append, if_neg (by decide),
    BitVec.getLsbD_append, if_pos (by decide), BitVec.getLsbD_ofBool]
  rfl

theorem packLow_active : (packLow v).getLsbD 0 = v.active := by
  rw [packLow_eq_append, BitVec.getLsbD_append, if_pos (by decide), BitVec.getLsbD_append, if_pos (by decide),
    BitVec.getLsbD_ofBool]
  rfl

end PackLow

/-- Settles O10: RD.LOW responds with `packLow` of the slot, whose fields the lemmas above give. -/
theorem rdLowReturnsTargetAndMode : Obligations.RdLowReturnsTargetAndMode := by
  refine ⟨.of_decodeRead (reg := Config.regLow) (fun i => by simp [decodeRead]) (by decide), fun i s => ?_⟩
  have hwide : (packLow (s.slot i)).getLsbD 1 = true ↔ (s.slot i).width = .wide := by
    rw [packLow_width, Width.bit_eq_true_iff]
  exact ⟨_, readDone_eq _ s, packLow_upperHalf _, packLow_targetHart _, packLow_gap _, hwide, packLow_active _⟩

/-- Settles O12: each of the four is the plain response 0, whatever the slot holds and whatever is written. -/
theorem highHalvesReadZeroAndIgnoreWrites : Obligations.HighHalvesReadZeroAndIgnoreWrites := by
  refine ⟨.of_decodeRead (reg := Config.regLowHi) (fun i => by simp [decodeRead]) (by decide),
    .of_decodeWrite (reg := Config.regLowHi) (fun i w => by simp [decodeWrite]) (by decide),
    .of_decodeRead (reg := Config.regActiveHi) (fun i => by simp [decodeRead]) (by decide),
    .of_decodeWrite (reg := Config.regActiveHi) (fun i w => by simp [decodeWrite]) (by decide), fun i w s => ?_⟩
  exact ⟨readDone_eq 0 s, writeDone_eq s, readDone_eq 0 s, writeDone_eq s⟩

end Sys2Proof.Machine
end

section
/-! PROOF. RD.HIGH and WR.HIGH_HI (R110, R111, R114). -/

namespace Sys2Proof

@[simp] theorem RegSel.ofReg_regHigh : RegSel.ofReg Config.regHigh = .high := by decide
@[simp] theorem RegSel.ofReg_regHighHi : RegSel.ofReg Config.regHighHi = .highHi := by decide

end Sys2Proof

namespace Sys2Proof.Machine

/-- R69 (2) with the extension written as the 32 zero bits it puts above the field. -/
theorem zext32_eq_append (v : BitVec 32) : zext32 v = 0#32 ++ v :=
  BitVec.setWidth_eq_append (by decide)

@[simp] theorem lowHalf_zext32 (v : BitVec 32) : lowHalf (zext32 v) = v :=
  zext32_eq_append v ▸ BitVec.extractLsb'_append_eq_right

@[simp] theorem highHalf_zext32 (v : BitVec 32) : highHalf (zext32 v) = 0 :=
  zext32_eq_append v ▸ BitVec.extractLsb'_append_eq_left

/-- R69 (4): a field shifted to the upper half has 32 zero bits below it. -/
theorem zext32_shiftLeft_eq_append (v : BitVec 32) : zext32 v <<< 32 = v ++ 0#32 :=
  calc zext32 v <<< 32
    _ = lowHalf (zext32 v) ++ 0#32 := BitVec.shiftLeft_eq_concat_of_lt (by decide)
    _ = v ++ 0#32 := by rw [lowHalf_zext32]

section LiveField
variable {v : Slot}

theorem Slot.live_of_wide (h : v.width = .wide) : v.live = v.pendingWide := by
  simp only [Slot.live, h]

theorem Slot.live_of_narrow (h : v.width = .narrow) : v.live = zext32 v.pendingNarrow := by
  simp only [Slot.live, h]

end LiveField

section OrWideHigh
variable (v : Slot) (w : Word)

@[simp] theorem Slot.highHalf_orWideHigh :
    highHalf (v.orWideHigh w).pendingWide = highHalf v.pendingWide ||| lowHalf w := by
  rw [Slot.orWideHigh, zext32_shiftLeft_eq_append, highHalf, BitVec.extractLsb'_or,
    BitVec.extractLsb'_append_eq_left]
  rfl

@[simp] theorem Slot.lowHalf_orWideHigh : lowHalf (v.orWideHigh w).pendingWide = lowHalf v.pendingWide := by
  rw [Slot.orWideHigh, zext32_shiftLeft_eq_append, lowHalf, BitVec.extractLsb'_or,
    BitVec.extractLsb'_append_eq_right, BitVec.or_zero]
  rfl

end OrWideHigh

/-- The frame of a write that is carried out, whatever it puts in the slot. -/
theorem WritesOnlySlot.of_setSlot (s : State) (i : SlotIx) (v : Slot) :
    WritesOnlySlot i s ((s.setSlot i v).respond 0) where
  others _ hj := State.slot_setSlot_ne s v hj
  rest := rfl

section WrHighHi
variable {s : State} {i : SlotIx}

theorem exec_wrHighHi_of_wide (w : Word) (h : (s.slot i).width = .wide) :
    exec (.wrHighHi i w) s = .next ((s.setSlot i ((s.slot i).orWideHigh w)).respond 0) := by
  simp only [exec, execWrHighHi, h, writeDone_eq]

theorem exec_wrHighHi_of_narrow (w : Word) (h : (s.slot i).width = .narrow) :
    exec (.wrHighHi i w) s = invalidWrite (slotOffset i Config.regHighHi) w s := by
  simp only [exec, execWrHighHi, h]

end WrHighHi

/-- Settles O13: RD.HIGH responds with the live field (R110), by the slot's width the Wide field or the zero-extended
Narrow one. -/
theorem rdHighReturnsTheLiveField : Obligations.RdHighReturnsTheLiveField := by
  refine ⟨.of_decodeRead (reg := Config.regHigh) (fun i => by simp [decodeRead]) (by decide), fun i s => ?_⟩
  refine ⟨_, readDone_eq _ s, Slot.live_of_wide, fun hnarrow => ?_⟩
  rw [Slot.live_of_narrow hnarrow]
  exact ⟨lowHalf_zext32 _, highHalf_zext32 _⟩

/-- Settles O16: when Wide the slot becomes its `orWideHigh`, whose halves the lemmas above give; when Narrow the write
is the one policy of R130 at the slot's HIGH_HI offset. -/
theorem wrHighHiIsValidOnlyWhenWide : Obligations.WrHighHiIsValidOnlyWhenWide := by
  refine ⟨.of_decodeWrite (reg := Config.regHighHi) (fun i w => by simp [decodeWrite]) (by decide),
    fun i off w s hoff => ⟨fun hwide => ?_, fun hnarrow => ?_⟩⟩
  · refine ⟨_, exec_wrHighHi_of_wide w hwide, .of_setSlot s i _, ?_⟩
    rw [State.slot_respond, State.slot_setSlot_same]
    exact ⟨rfl, Slot.highHalf_orWideHigh _ w, Slot.lowHalf_orWideHigh _ w⟩
  · obtain rfl : off = slotOffset i Config.regHighHi := eq_slotOffset_of_toNat hoff
    exact exec_wrHighHi_of_narrow w hnarrow

end Sys2Proof.Machine
end

section
/-! PROOF. RD.ACTIVE (R120). -/

namespace Sys2Proof

@[simp] theorem RegSel.ofReg_regActive : RegSel.ofReg Config.regActive = .active := by decide

end Sys2Proof

namespace Sys2Proof.Machine

section Zext1
variable (b : Bool)

/-- R69 (2) with the extension written as the 63 zero bits it puts above the flag. -/
theorem zext1_eq_append : zext1 b = 0#63 ++ BitVec.ofBool b :=
  BitVec.setWidth_eq_append (by decide)

theorem zext1_upperBits : (zext1 b).extractLsb' 1 63 = 0 :=
  zext1_eq_append b ▸ BitVec.extractLsb'_append_eq_left

theorem zext1_bit : (zext1 b).getLsbD 0 = b := by
  rw [zext1_eq_append, BitVec.getLsbD_append, if_pos (by decide), BitVec.getLsbD_ofBool]
  rfl

end Zext1

/-- Settles O17: RD.ACTIVE responds with `zext1` of the slot's `active`, whose bits the lemmas above give. -/
theorem rdActiveReturnsActive : Obligations.RdActiveReturnsActive := by
  refine ⟨.of_decodeRead (reg := Config.regActive) (fun i => by simp [decodeRead]) (by decide), fun i s => ?_⟩
  exact ⟨_, readDone_eq _ s, zext1_upperBits _, zext1_bit _⟩

end Sys2Proof.Machine
end

section
/-! PROOF. Misaligned and out-of-window accesses (R131, R132). -/

namespace Sys2Proof

/-- Which `off[4:0]` a selector stands for (R44, R70). -/
def RegSel.Covers (sel : RegSel) (n : Nat) : Prop :=
  match sel with
  | .send => n = 0x00
  | .rsvd04 => n = 0x04
  | .low => n = 0x08
  | .lowHi => n = 0x0C
  | .high => n = 0x10
  | .highHi => n = 0x14
  | .active => n = 0x18
  | .activeHi => n = 0x1C
  | .misal1 => n % 4 = 1
  | .misal2 => n % 4 = 2
  | .misal3 => n % 4 = 3

/-- R70: the dispatch on `reg` in one equivalence, a finite fact for each selector. -/
theorem RegSel.ofReg_eq_iff (sel : RegSel) (reg : RegOff) : RegSel.ofReg reg = sel ↔ sel.Covers reg.toNat := by
  cases sel with
  | _ =>
    simp only [RegSel.Covers]
    revert reg
    decide

/-- R61: `reg = offset & 0x1f`. -/
theorem regSelect_toNat (off : Word) : (regSelect off).toNat = off.toNat % 32 := by
  rw [regSelect, BitVec.extractLsb'_toNat]
  rfl

theorem RegSel.covers_of_ofReg_regSelect {off : Word} {sel : RegSel} (h : RegSel.ofReg (regSelect off) = sel) :
    sel.Covers (off.toNat % 32) :=
  regSelect_toNat off ▸ (RegSel.ofReg_eq_iff sel _).mp h

theorem RegSel.ofReg_regSelect_of_covers {off : Word} {sel : RegSel} (h : sel.Covers (off.toNat % 32)) :
    RegSel.ofReg (regSelect off) = sel :=
  (RegSel.ofReg_eq_iff sel _).mpr (regSelect_toNat off ▸ h)

theorem inWindow_iff {off : Word} : inWindow off = true ↔ off.toNat < 0x4000 := decide_eq_true_iff

theorem outOfWindow_iff {off : Word} : outOfWindow off = true ↔ 0x4000 ≤ off.toNat := decide_eq_true_iff

theorem decode_of_inWindow {r : Request} (h : inWindow r.off = true) :
    decode r = if r.we then decodeWrite r.off r.wdata else decodeRead r.off :=
  if_pos h

theorem misalignedBy_of_mod {off : Word} {n : BitVec 2} (hin : off.toNat < 0x4000) (hn : off.toNat % 4 = n.toNat) :
    misalignedBy n off = true := by
  have hlow : off.extractLsb' 0 2 = n := BitVec.eq_of_toNat_eq ((BitVec.extractLsb'_toNat ..).trans hn)
  have hwin : off.toNat < Config.windowBytes := hin
  simp [misalignedBy, hlow, hwin]

/-- `off[1:0]` lies inside `reg`. -/
theorem toNat_mod_32_mod_4 (off : Word) : off.toNat % 32 % 4 = off.toNat % 4 :=
  Nat.mod_mod_of_dvd _ (by decide)

end Sys2Proof

namespace Sys2Proof.Machine

/-- R132: both directions at an in-window offset with `off[1:0] = n`, once the two columns of the dispatch have an
invalid read `rd` and an invalid write `wr` there. -/
theorem misaligned_access {off w : Word} {s : State} {n : BitVec 2} {rd wr : Instr} (hin : off.toNat < 0x4000)
    (hn : off.toNat % 4 = n.toNat) (hrd : decodeRead off = rd) (hwr : decodeWrite off w = wr)
    (hexecrd : exec rd s = invalidRead off s) (hexecwr : exec wr s = invalidWrite off w s) :
    decode ⟨false, off, w⟩ = rd ∧ decode ⟨true, off, w⟩ = wr ∧
    Request.key ⟨false, off, w⟩ &&& 0xC003 = 0#1 ++ 0#1 ++ (0#12 ++ n) ∧
    Request.key ⟨true, off, w⟩ &&& 0xC003 = 1#1 ++ 0#1 ++ (0#12 ++ n) ∧
    exec rd s = .next { s with rdata := 0, diags := s.diags ++ [⟨.invalidRead, off, 0⟩] } ∧
    exec wr s = .next { s with rdata := 0, diags := s.diags ++ [⟨.invalidWrite, off, w⟩] } := by
  have hwin : inWindow off = true := inWindow_iff.mpr hin
  have hmis := misalignedBy_of_mod hin hn
  exact ⟨(decode_of_inWindow hwin).trans hrd, (decode_of_inWindow hwin).trans hwr,
    Laws.EncodesInRow.misal_row hmis, Laws.EncodesInRow.misal_row hmis, hexecrd, hexecwr⟩

/-- Settles O19: each of the three residues selects its own row, and the operations of all three are the one policy of
R130 at the whole offset. -/
theorem misalignedAccessIsInvalid : Obligations.MisalignedAccessIsInvalid := by
  intro off w s hin
  have hmod := toNat_mod_32_mod_4 off
  refine ⟨fun h => ?_, fun h => ?_, fun h => ?_⟩
  · have hsel := RegSel.ofReg_regSelect_of_covers (sel := .misal1) (hmod.trans h)
    exact misaligned_access (n := 1) hin h (by simp only [decodeRead, hsel]) (by simp only [decodeWrite, hsel]) rfl rfl
  · have hsel := RegSel.ofReg_regSelect_of_covers (sel := .misal2) (hmod.trans h)
    exact misaligned_access (n := 2) hin h (by simp only [decodeRead, hsel]) (by simp only [decodeWrite, hsel]) rfl rfl
  · have hsel := RegSel.ofReg_regSelect_of_covers (sel := .misal3) (hmod.trans h)
    exact misaligned_access (n := 3) hin h (by simp only [decodeRead, hsel]) (by simp only [decodeWrite, hsel]) rfl rfl

/-- Settles O20: outside the window the direction alone selects the row, and both operations are the one policy of R130
at the offset as presented. -/
theorem outOfWindowAccessIsInvalid : Obligations.OutOfWindowAccessIsInvalid := by
  intro off w s h
  have hout : outOfWindow off = true := outOfWindow_iff.mpr h
  have hkey : ∀ we, Request.key ⟨we, off, w⟩ &&& 0xC000 = BitVec.ofBool we ++ 1#1 ++ 0#14 :=
    fun _ => Laws.EncodesInRow.oor_row hout
  exact ⟨decode_of_outOfWindow hout, decode_of_outOfWindow hout, (hkey false).trans (by decide),
    (hkey true).trans (by decide), invalidRead_eq off s, invalidWrite_eq off w s⟩

end Sys2Proof.Machine
end

section
/-! PROOF. The complete list of invalid accesses and the events they emit (R130, R133, R142, R143). -/

namespace Sys2Proof

/-- R61: inside the window the offset is its slot's register with the five bits `reg`. -/
theorem slotOffset_slotIndex {off : Word} {reg : RegOff} (hin : inWindow off = true)
    (hreg : off.toNat % 32 = reg.toNat) : slotOffset (slotIndex off) reg = off := by
  have hlt := inWindow_iff.mp hin
  have hindex : (slotIndex off).toNat = off.toNat / 32 % 512 := by
    rw [slotIndex, BitVec.extractLsb'_toNat, Nat.shiftRight_eq_div_pow]
  refine (eq_slotOffset_of_toNat ?_).symm
  omega

theorem encode_decodeRead {off : Word} (hin : inWindow off = true) : encode (decodeRead off) = .read off := by
  unfold decodeRead
  cases hsel : RegSel.ofReg (regSelect off) with
  | send | rsvd04 | low | lowHi | high | highHi | active | activeHi =>
    exact congrArg Request.read (slotOffset_slotIndex hin (RegSel.covers_of_ofReg_regSelect hsel))
  | misal1 | misal2 | misal3 => rfl

theorem encode_decodeWrite {off : Word} (hin : inWindow off = true) (w : Word) :
    encode (decodeWrite off w) = .write off w := by
  unfold decodeWrite
  cases hsel : RegSel.ofReg (regSelect off) with
  | send | rsvd04 | low | lowHi | high | highHi | active | activeHi =>
    exact congrArg (Request.write · w) (slotOffset_slotIndex hin (RegSel.covers_of_ofReg_regSelect hsel))
  | misal1 | misal2 | misal3 => rfl

/-- R60: no part of a request but a read's data is lost by decoding it. -/
theorem encode_decode (r : Request) : encode (decode r) = r.canonical := by
  obtain ⟨we, off, w⟩ := r
  cases hin : inWindow off with
  | true =>
    rw [decode_of_inWindow hin]
    cases we with
    | false => exact encode_decodeRead hin
    | true => exact encode_decodeWrite hin w
  | false =>
    rw [decode_of_outOfWindow (by rw [outOfWindow_eq_not_inWindow, hin]; rfl)]
    cases we with
    | false => rfl
    | true => rfl

@[simp] theorem Request.canonical_off (r : Request) : r.canonical.off = r.off := by
  unfold Request.canonical
  split <;> rfl

end Sys2Proof

namespace Sys2Proof.Machine

/-- The request of a send names its slot: the row of WR.SEND has no other operands. -/
theorem decode_of_isSend {r : Request} (h : isSend r = true) : ∃ b, decode r = .wrSend (slotIndex r.off) b := by
  have hop : (decode r).op = .wrSend := eq_of_beq h
  have henc := encode_decode r
  cases hd : decode r with
  | wrSend j b =>
    have hoff : r.off = slotOffset j Config.regSend := by
      rw [← Request.canonical_off, ← henc, hd, encode, Request.write_off]
    exact ⟨b, by rw [hoff, slotIndex_slotOffset]⟩
  | _ => rw [hd] at hop; cases hop

/-- R130: the event of an invalid access, the same policy for every one of them. -/
def invalidEvent (r : Request) : DiagEvent :=
  if r.we then ⟨.invalidWrite, r.off, r.wdata⟩ else ⟨.invalidRead, r.off, 0⟩

@[simp] theorem invalidEvent_canonical (r : Request) : invalidEvent r.canonical = invalidEvent r := by
  obtain ⟨we, off, w⟩ := r
  cases we with
  | false => rfl
  | true => rfl

/-- R130: every invalid access answers 0 and emits its one event; nothing else changes. -/
theorem exec_of_isInvalid {i : Instr} {s : State} (h : isInvalid i s = true) :
    exec i s = .next { s with rdata := 0, diags := s.diags ++ [invalidEvent (encode i)] } := by
  cases i with
  | rdSend | rdRsvd04 | wrRsvd04 | rdMisal1 | rdMisal2 | rdMisal3 | wrMisal1 | wrMisal2 | wrMisal3 | rdOor | wrOor =>
    rfl
  | rdHighHi j =>
    have hwide : (s.slot j).width = .wide := eq_of_beq h
    simp only [exec, execRdHighHi, hwide]
    rfl
  | wrHighHi j w => exact exec_wrHighHi_of_narrow w (eq_of_beq h)
  | wrSend | rdLow | wrLow | rdLowHi | wrLowHi | rdHigh | wrHigh | rdActive | wrActive | rdActiveHi | wrActiveHi =>
    cases h

/-- R133: a valid access that is no send emits no event. -/
theorem exec_diags_of_not_isInvalid {i : Instr} {s : State} (h : isInvalid i s = false) (hop : i.op ≠ .wrSend) :
    ∃ t, exec i s = .next t ∧ t.diags = s.diags := by
  cases i with
  | rdLow | wrLow | rdLowHi | wrLowHi | rdHigh | wrHigh | rdActive | wrActive | rdActiveHi | wrActiveHi =>
    exact ⟨_, rfl, rfl⟩
  | rdHighHi j =>
    obtain ⟨hi, -⟩ | ⟨-, v, hv⟩ := exec_read_cases s (i := .rdHighHi j) rfl
    · rw [h] at hi; cases hi
    · exact ⟨_, hv, rfl⟩
  | wrHighHi j w =>
    cases hw : (s.slot j).width with
    | wide => exact ⟨_, exec_wrHighHi_of_wide w hw, rfl⟩
    | narrow => rw [isInvalid, hw] at h; cases h
  | wrSend => exact absurd rfl hop
  | rdSend | rdRsvd04 | wrRsvd04 | rdMisal1 | rdMisal2 | rdMisal3 | wrMisal1 | wrMisal2 | wrMisal3 | rdOor | wrOor =>
    cases h

/-- R144 to R146: a send emits at most one event, of one of its own three kinds. -/
theorem exec_wrSend_diags (i : SlotIx) (b : Word) (s : State) :
    ∃ t ds, exec (.wrSend i b) s = .next t ∧ t.diags = s.diags ++ ds ∧ ds.length ≤ 1 ∧
      ∀ d ∈ ds, d.kind = .targetNotFound ∨ d.kind = .targetUnwired ∨ d.kind = .sendRange := by
  obtain ⟨e, he, -, hcases⟩ := wrSend_effect i b s
  refine ⟨_, e.diags, he s rfl fun _ _ => rfl, rfl, ?_⟩
  obtain ⟨-, -, hlen, hkind⟩ | ⟨k, -, -, -, -, -, -, hnone⟩ := hcases
  · exact ⟨hlen, fun d hd => (hkind d hd).1⟩
  · simp [hnone]

section IsInvalidIff
variable (off w : Word) (s : State)

/-- R133, the reads in the window, by the rows of the dispatch. -/
theorem isInvalid_decodeRead_iff : isInvalid (decodeRead off) s = true ↔
    off.toNat % 4 ≠ 0 ∨ off.toNat % 32 = 0x04 ∨ off.toNat % 32 = 0x00 ∨
      (off.toNat % 32 = 0x14 ∧ (s.slot (slotIndex off)).width = .wide) := by
  unfold decodeRead
  cases hsel : RegSel.ofReg (regSelect off) with
  | send | rsvd04 | low | lowHi | high | highHi | active | activeHi =>
    have hcov : off.toNat % 32 = _ := RegSel.covers_of_ofReg_regSelect hsel
    simp [isInvalid, ← toNat_mod_32_mod_4 off, hcov]
  | misal1 | misal2 | misal3 =>
    have hcov : off.toNat % 32 % 4 = _ := RegSel.covers_of_ofReg_regSelect hsel
    exact iff_of_true rfl (.inl (by omega))

/-- R133, the writes in the window. -/
theorem isInvalid_decodeWrite_iff : isInvalid (decodeWrite off w) s = true ↔
    off.toNat % 4 ≠ 0 ∨ off.toNat % 32 = 0x04 ∨
      (off.toNat % 32 = 0x14 ∧ (s.slot (slotIndex off)).width = .narrow) := by
  unfold decodeWrite
  cases hsel : RegSel.ofReg (regSelect off) with
  | send | rsvd04 | low | lowHi | high | highHi | active | activeHi =>
    have hcov : off.toNat % 32 = _ := RegSel.covers_of_ofReg_regSelect hsel
    simp [isInvalid, ← toNat_mod_32_mod_4 off, hcov]
  | misal1 | misal2 | misal3 =>
    have hcov : off.toNat % 32 % 4 = _ := RegSel.covers_of_ofReg_regSelect hsel
    exact iff_of_true rfl (.inl (by omega))

end IsInvalidIff

theorem isInvalid_decode_of_outOfWindow {r : Request} (h : outOfWindow r.off = true) (s : State) :
    isInvalid (decode r) s = true := by
  rw [decode_of_outOfWindow h]
  cases r.we with
  | false => rfl
  | true => rfl

/-- Settles O41: in the window the list is what the two columns of the dispatch give, and what is left of the
operations emits nothing. -/
theorem invalidAccessesAreExactlyTheList : Obligations.InvalidAccessesAreExactlyTheList := by
  intro r s
  constructor
  · cases hin : inWindow r.off with
    | false =>
      have hout : outOfWindow r.off = true := by rw [outOfWindow_eq_not_inWindow, hin]; rfl
      exact iff_of_true (isInvalid_decode_of_outOfWindow hout s) (.inl (outOfWindow_iff.mp hout))
    | true =>
      have hlt := inWindow_iff.mp hin
      rw [decode_of_inWindow hin]
      cases r.we with
      | false =>
        refine (isInvalid_decodeRead_iff r.off s).trans ?_
        simp [hlt, hlt.not_ge]
      | true =>
        refine (isInvalid_decodeWrite_iff r.off r.wdata s).trans ?_
        simp [hlt, hlt.not_ge]
  · intro hvalid hinactive
    cases hsend : isSend r with
    | true =>
      obtain ⟨b, hd⟩ := decode_of_isSend hsend
      exact ⟨s.respond 0, hd ▸ exec_wrSend_of_inactive b (hinactive hsend), rfl⟩
    | false => exact exec_diags_of_not_isInvalid hvalid (ne_of_beq_false hsend)

/-- Settles O42: an invalid access is the one policy of R130 for the request itself, and of the valid ones only a send
emits an event. -/
theorem invalidAccessesAloneEmitInvalidEvents : Obligations.InvalidAccessesAloneEmitInvalidEvents := by
  intro r s
  cases hinv : isInvalid (decode r) s with
  | true =>
    have hexec := exec_of_isInvalid hinv
    rw [encode_decode, invalidEvent_canonical] at hexec
    exact ⟨_, hexec, fun _ => rfl, nofun⟩
  | false =>
    cases hsend : isSend r with
    | true =>
      obtain ⟨b, hd⟩ := decode_of_isSend hsend
      obtain ⟨t, ds, ht, hdiags, hlen, hkind⟩ := exec_wrSend_diags (slotIndex r.off) b s
      exact ⟨t, hd ▸ ht, nofun, fun _ => ⟨ds, hdiags, hlen, fun d hmem => ⟨hkind d hmem, rfl⟩⟩⟩
    | false =>
      obtain ⟨t, ht, hdiags⟩ := exec_diags_of_not_isInvalid hinv (ne_of_beq_false hsend)
      exact ⟨t, ht, nofun, fun _ => ⟨[], by simp [hdiags], by simp, nofun⟩⟩

end Sys2Proof.Machine
end

section
/-! PROOF. WR.SEND to a hart the HartRegistry does not know (R144). -/

namespace Sys2Proof.Machine

/-- R144: the lookup of the target ends the send of an active slot before the line and the bit position are tested. -/
theorem exec_wrSend_of_absent {i : SlotIx} {s : State} (b : Word) (hactive : (s.slot i).active = true)
    (habsent : hartPresent s.cfg (zextHart (s.slot i).targetHart) = false) :
    exec (.wrSend i b) s = dropSend .targetNotFound i b s := by
  simp [exec, execWrSend, hactive, habsent]

/-- Settles O22: the event a send to an absent hart is dropped with names the slot's SEND offset, which is `off`. -/
theorem sendToAbsentHartIsReported : Obligations.SendToAbsentHartIsReported := by
  intro i off b s hoff hactive habsent
  obtain rfl : off = slotOffset i Config.regSend := eq_slotOffset_of_toNat hoff
  exact (exec_wrSend_of_absent b hactive habsent).trans (dropSend_eq ..)

end Sys2Proof.Machine
end

section
/-! PROOF. Encode and decode are inverse, and the match and mask table is the decoder (R60 to R63, R70). -/

namespace Sys2Proof

@[simp] theorem RegSel.ofReg_regSend : RegSel.ofReg Config.regSend = .send := by decide
@[simp] theorem RegSel.ofReg_regRsvd04 : RegSel.ofReg Config.regRsvd04 = .rsvd04 := by decide

theorem misalignedBy_iff {n : BitVec 2} {off : Word} :
    misalignedBy n off = true ↔ off.toNat < 0x4000 ∧ off.toNat % 4 = n.toNat := by
  refine ⟨fun h => ?_, fun ⟨hin, hn⟩ => misalignedBy_of_mod hin hn⟩
  simp only [misalignedBy, Bool.and_eq_true, decide_eq_true_eq, beq_iff_eq] at h
  obtain ⟨hin, rfl⟩ := h
  exact ⟨hin, (BitVec.extractLsb'_toNat 0 2 off).symm⟩

/-- R132: a misaligned offset is in the window, and `reg` selects the row of its low bits. -/
theorem ofReg_regSelect_of_misalignedBy {n : BitVec 2} {off : Word} (sel : RegSel) (h : misalignedBy n off = true)
    (hsel : ∀ m, m % 4 = n.toNat → sel.Covers m) :
    inWindow off = true ∧ RegSel.ofReg (regSelect off) = sel := by
  obtain ⟨hin, hmod⟩ := misalignedBy_iff.mp h
  exact ⟨inWindow_iff.mpr hin,
    RegSel.ofReg_regSelect_of_covers (hsel _ ((toNat_mod_32_mod_4 off).trans hmod))⟩

/-- Settles O1, by the rows of R63: a register of a slot is found through the fields of its offset, a misaligned row
through the low bits its well-formedness fixes, an out-of-window row by the window test. -/
theorem decodeOfEncodeIsTheOperation : Obligations.DecodeOfEncodeIsTheOperation := by
  intro i hwf
  cases i with
  | rdSend | rdRsvd04 | rdLow | rdLowHi | rdHigh | rdHighHi | rdActive | rdActiveHi =>
    refine (decode_read_slotOffset _ _ 0).trans ?_
    simp [decodeRead]
  | wrSend | wrRsvd04 | wrLow | wrLowHi | wrHigh | wrHighHi | wrActive | wrActiveHi =>
    refine (decode_write_slotOffset _ _ _).trans ?_
    simp [decodeWrite]
  | rdMisal1 | wrMisal1 =>
    obtain ⟨hin, hreg⟩ := ofReg_regSelect_of_misalignedBy .misal1 hwf fun _ => id
    simp [encode, decode, hin, decodeRead, decodeWrite, hreg]
  | rdMisal2 | wrMisal2 =>
    obtain ⟨hin, hreg⟩ := ofReg_regSelect_of_misalignedBy .misal2 hwf fun _ => id
    simp [encode, decode, hin, decodeRead, decodeWrite, hreg]
  | rdMisal3 | wrMisal3 =>
    obtain ⟨hin, hreg⟩ := ofReg_regSelect_of_misalignedBy .misal3 hwf fun _ => id
    simp [encode, decode, hin, decodeRead, decodeWrite, hreg]
  | rdOor | wrOor => exact decode_of_outOfWindow hwf

section DecodeWellFormed
variable {off : Word}

theorem decodeRead_wellFormed (hin : off.toNat < 0x4000) : (decodeRead off).wellFormed = true := by
  unfold decodeRead
  cases hsel : RegSel.ofReg (regSelect off) with
  | send | rsvd04 | low | lowHi | high | highHi | active | activeHi => rfl
  | misal1 | misal2 | misal3 =>
    have hcov : off.toNat % 32 % 4 = _ := RegSel.covers_of_ofReg_regSelect hsel
    exact misalignedBy_of_mod hin ((toNat_mod_32_mod_4 off).symm.trans hcov)

theorem decodeWrite_wellFormed (hin : off.toNat < 0x4000) (w : Word) : (decodeWrite off w).wellFormed = true := by
  unfold decodeWrite
  cases hsel : RegSel.ofReg (regSelect off) with
  | send | rsvd04 | low | lowHi | high | highHi | active | activeHi => rfl
  | misal1 | misal2 | misal3 =>
    have hcov : off.toNat % 32 % 4 = _ := RegSel.covers_of_ofReg_regSelect hsel
    exact misalignedBy_of_mod hin ((toNat_mod_32_mod_4 off).symm.trans hcov)

end DecodeWellFormed

theorem decode_wellFormed (r : Request) : (decode r).wellFormed = true := by
  cases hin : inWindow r.off with
  | true =>
    have hlt := inWindow_iff.mp hin
    rw [decode_of_inWindow hin]
    cases r.we with
    | false => exact decodeRead_wellFormed hlt
    | true => exact decodeWrite_wellFormed hlt r.wdata
  | false =>
    have hout : outOfWindow r.off = true := by rw [outOfWindow_eq_not_inWindow, hin]; rfl
    rw [decode_of_outOfWindow hout]
    cases r.we with
    | false => exact hout
    | true => exact hout

/-- Settles O2: the operands the decoder forms are ones its row admits, and none of the request is lost in them. -/
theorem encodeOfDecodeIsTheRequest : Obligations.EncodeOfDecodeIsTheRequest :=
  fun r => ⟨decode_wellFormed r, encode_decode r⟩

/-- R63: the 24 rows together. -/
theorem encodesInRow (i : Instr) : Laws.EncodesInRow.Statement i := by
  cases i with
  | rdSend => exact Laws.EncodesInRow.rdSend _
  | wrSend => exact Laws.EncodesInRow.wrSend _ _
  | rdRsvd04 => exact Laws.EncodesInRow.rdRsvd04 _
  | wrRsvd04 => exact Laws.EncodesInRow.wrRsvd04 _ _
  | rdLow => exact Laws.EncodesInRow.rdLow _
  | wrLow => exact Laws.EncodesInRow.wrLow _ _
  | rdLowHi => exact Laws.EncodesInRow.rdLowHi _
  | wrLowHi => exact Laws.EncodesInRow.wrLowHi _ _
  | rdHigh => exact Laws.EncodesInRow.rdHigh _
  | wrHigh => exact Laws.EncodesInRow.wrHigh _ _
  | rdHighHi => exact Laws.EncodesInRow.rdHighHi _
  | wrHighHi => exact Laws.EncodesInRow.wrHighHi _ _
  | rdActive => exact Laws.EncodesInRow.rdActive _
  | wrActive => exact Laws.EncodesInRow.wrActive _ _
  | rdActiveHi => exact Laws.EncodesInRow.rdActiveHi _
  | wrActiveHi => exact Laws.EncodesInRow.wrActiveHi _ _
  | rdMisal1 => exact Laws.EncodesInRow.rdMisal1 _
  | rdMisal2 => exact Laws.EncodesInRow.rdMisal2 _
  | rdMisal3 => exact Laws.EncodesInRow.rdMisal3 _
  | wrMisal1 => exact Laws.EncodesInRow.wrMisal1 _ _
  | wrMisal2 => exact Laws.EncodesInRow.wrMisal2 _ _
  | wrMisal3 => exact Laws.EncodesInRow.wrMisal3 _ _
  | rdOor => exact Laws.EncodesInRow.rdOor _
  | wrOor => exact Laws.EncodesInRow.wrOor _ _

@[simp] theorem Request.canonical_key (r : Request) : r.canonical.key = r.key := by
  obtain ⟨we, off, w⟩ := r
  cases we with
  | false => rfl
  | true => rfl

/-- The row of the decoded operation matches the request's key. -/
theorem op_decode_accepts_key (r : Request) : (decode r).op.accepts r.key = true := by
  have hrow := encodesInRow (decode r) (decode_wellFormed r)
  rwa [encode_decode, Request.canonical_key] at hrow

theorem Op.mem_all (o : Op) : o ∈ Op.all := by
  cases o with
  | _ => decide

/-- Two rows that look alike where both masks look are one row: the finite fact behind the rows' disjointness. -/
theorem Op.eq_of_pattern_and_mask : ∀ o ∈ Op.all, ∀ o' ∈ Op.all,
    o.pattern &&& o'.mask = o'.pattern &&& o.mask → o = o' := by
  decide

theorem Op.eq_of_accepts {o o' : Op} {k : Key} (h : o.accepts k = true) (h' : o'.accepts k = true) : o = o' := by
  have hk : k &&& o.mask = o.pattern := eq_of_beq h
  have hk' : k &&& o'.mask = o'.pattern := eq_of_beq h'
  refine Op.eq_of_pattern_and_mask o o.mem_all o' o'.mem_all ?_
  rw [← hk, ← hk', BitVec.and_assoc, BitVec.and_assoc, BitVec.and_comm o.mask]

/-- Settles O3: the decoded row matches the key, and no second row can. -/
theorem decodeSelectsTheMatchingRow : Obligations.DecodeSelectsTheMatchingRow :=
  fun r _ => ⟨fun h => Op.eq_of_accepts (op_decode_accepts_key r) h, fun h => h ▸ op_decode_accepts_key r⟩

/-- R62 as a number. -/
theorem Request.key_toNat (r : Request) :
    r.key.toNat = 2 ^ 15 * r.we.toNat + 2 ^ 14 * (outOfWindow r.off).toNat + r.off.toNat % 2 ^ 14 := by
  have hlow : (r.off.extractLsb' 0 14).toNat = r.off.toNat % 2 ^ 14 := BitVec.extractLsb'_toNat 0 14 r.off
  rw [Request.key, BitVec.toNat_append, BitVec.toNat_append, hlow,
    ← Nat.shiftLeft_add_eq_or_of_lt (Nat.mod_lt _ (by decide)), ← Nat.shiftLeft_add_eq_or_of_lt (BitVec.isLt _)]
  simp only [BitVec.toNat_ofBool, Nat.shiftLeft_eq]
  omega

/-- Every key is some request's: the table word with those 16 bits stands for one (log entry 1). -/
theorem key_requestOfTableWord (k : Key) : (requestOfTableWord 16 k.toNat).key = k := by
  have hk := k.isLt
  have hwe : (requestOfTableWord 16 k.toNat).we.toNat = k.toNat / 2 ^ 15 := by
    simp only [requestOfTableWord, Nat.mod_eq_of_lt hk, Nat.toNat_testBit]
    omega
  have hoff : (requestOfTableWord 16 k.toNat).off.toNat = k.toNat % 2 ^ 15 := by
    simp only [requestOfTableWord, BitVec.toNat_ofNat]
    omega
  apply BitVec.eq_of_toNat_eq
  rw [Request.key_toNat, hwe, hoff]
  cases hout : outOfWindow (requestOfTableWord 16 k.toNat).off with
  | true =>
    have hge := outOfWindow_iff.mp hout
    simp only [Bool.toNat_true]
    omega
  | false =>
    have hlt : ¬ 0x4000 ≤ (requestOfTableWord 16 k.toNat).off.toNat := fun h => by
      rw [outOfWindow_iff.mpr h] at hout
      cases hout
    simp only [Bool.toNat_false]
    omega

/-- Settles O4: the row that matches a key is the one a request with that key decodes to. -/
theorem tableRowsPartitionTheKeys : Obligations.TableRowsPartitionTheKeys := by
  intro k
  have hrow : (decode (requestOfTableWord 16 k.toNat)).op.accepts k = true := by
    simpa only [key_requestOfTableWord] using op_decode_accepts_key (requestOfTableWord 16 k.toNat)
  exact ⟨_, hrow, fun o' h => Op.eq_of_accepts h hrow⟩

/-- Settles O6: the two fields are the quotient and the remainder of the offset by 32. -/
theorem decodeSplitsTheOffset : Obligations.DecodeSplitsTheOffset := by
  intro off hin
  have hindex : (slotIndex off).toNat = off.toNat >>> 5 % 512 := BitVec.extractLsb'_toNat 5 9 off
  have hshift : off.toNat >>> 5 = off.toNat / 32 := Nat.shiftRight_eq_div_pow _ 5
  have hmask : off.toNat &&& 0x1f = off.toNat % 32 := Nat.and_two_pow_sub_one_eq_mod _ 5
  refine ⟨by omega, (slotIndex off).isLt, (regSelect_toNat off).trans hmask.symm⟩

/-- Settles O7, evaluated request by request. -/
theorem vectorRequestsDecode : Obligations.VectorRequestsDecode := by
  unfold Obligations.VectorRequestsDecode
  decide

end Sys2Proof
end

section
/-! PROOF. Everything an operation can do, said once for all 24, with what each case writes and emits. -/

namespace Sys2Proof.Machine

/-- A write that is carried out on slot `j` and no send: the operation and what it puts in the slot (R101, R112, R114,
R121). -/
inductive SlotWrite (s : State) (j : SlotIx) : Instr → Slot → Prop
  | low (w : Word) : SlotWrite s j (.wrLow j w) ((s.slot j).withLow w)
  | high (w : Word) : SlotWrite s j (.wrHigh j w) ((s.slot j).withLive w)
  | highHi (w : Word) (hwide : (s.slot j).width = .wide) : SlotWrite s j (.wrHighHi j w) ((s.slot j).orWideHigh w)
  | active (w : Word) : SlotWrite s j (.wrActive j w) ((s.slot j).withActive (isNonzero w))

/-- The five things an operation can do: the policy of R130, the plain response, a slot write, and for WR.SEND an
event (R144 to R146) or the update and the edge (R80). -/
inductive Serves (s : State) (i : Instr) : State → Prop
  | invalid (hinv : isInvalid i s = true) :
      Serves s i { s with rdata := 0, diags := s.diags ++ [invalidEvent (encode i)] }
  | respond (v : Word) (hwrite : i.op.isWrite = true → v = 0) : Serves s i (s.respond v)
  | write {j : SlotIx} {v : Slot} (hwrite : SlotWrite s j i v) : Serves s i ((s.setSlot j v).respond 0)
  | drop {j : SlotIx} {b : Word} {kind : DiagKind} (hi : i = .wrSend j b)
      (hkind : kind = .targetNotFound ∨ kind = .targetUnwired ∨ kind = .sendRange) :
      Serves s i ((s.report kind (slotOffset j Config.regSend) b).respond 0)
  | send {j : SlotIx} {b : Word} {k : Nat} (hi : i = .wrSend j b) (hsend : s.CanSend j k)
      (hb : b.toNat < (s.slot j).liveBits) : Serves s i (s.afterSend j k b)

theorem SlotWrite.slot? {s : State} {j : SlotIx} {i : Instr} {v : Slot} (h : SlotWrite s j i v) :
    i.slot? = some j := by
  cases h with
  | _ => rfl

/-- The tests of R80 are what `CanSend` says, once the line of the target is found. -/
theorem State.CanSend.of_lineOf {s : State} {i : SlotIx} {k : Nat} (hactive : (s.slot i).active = true)
    (hpresent : hartPresent s.cfg (zextHart (s.slot i).targetHart) = true)
    (hline : lineOf s.cfg (zextHart (s.slot i).targetHart) = some k) : s.CanSend i k := by
  obtain ⟨hwired, htarget⟩ := lineOf_eq_some hline
  rw [zextHart_toNat] at htarget
  exact ⟨hactive, hpresent, htarget.symm, hwired⟩

theorem serves_of_execWrSend {i : SlotIx} {b : Word} {s t : State} (h : exec (.wrSend i b) s = .next t) :
    Serves s (.wrSend i b) t := by
  obtain ⟨-, rfl⟩ | ⟨-, -, rfl⟩ | ⟨-, -, -, rfl⟩ | ⟨k, -, -, -, -, rfl⟩ | ⟨k, hactive, hpresent, hline, hrange, rfl⟩ :=
    execWrSend_cases h
  · exact .respond 0 fun _ => rfl
  · exact .drop rfl (.inl rfl)
  · exact .drop rfl (.inr (.inl rfl))
  · exact .drop rfl (.inr (.inr rfl))
  · exact .send rfl (.of_lineOf hactive hpresent hline) (of_decide_eq_true hrange)

theorem exec_completes (i : Instr) (s : State) : ∃ t, exec i s = .next t := by
  obtain ⟨e, he, -⟩ := exec_effect i s
  exact ⟨_, he s rfl fun _ _ => rfl⟩

/-- Every operation completes, in one of the five ways. -/
theorem exec_serves (i : Instr) (s : State) : ∃ t, exec i s = .next t ∧ Serves s i t := by
  cases hinv : isInvalid i s with
  | true => exact ⟨_, exec_of_isInvalid hinv, .invalid hinv⟩
  | false =>
    cases i with
    | rdLow | rdLowHi | rdHigh | rdActive | rdActiveHi => exact ⟨_, rfl, .respond _ nofun⟩
    | wrLowHi | wrActiveHi => exact ⟨_, rfl, .respond _ fun _ => rfl⟩
    | wrLow j w => exact ⟨_, rfl, .write (.low w)⟩
    | wrHigh j w => exact ⟨_, rfl, .write (.high w)⟩
    | wrActive j w => exact ⟨_, rfl, .write (.active w)⟩
    | rdHighHi j =>
      obtain ⟨hi, -⟩ | ⟨-, v, hv⟩ := exec_read_cases s (i := .rdHighHi j) rfl
      · rw [hinv] at hi; cases hi
      · exact ⟨_, hv, .respond v nofun⟩
    | wrHighHi j w =>
      cases hwidth : (s.slot j).width with
      | wide => exact ⟨_, exec_wrHighHi_of_wide w hwidth, .write (.highHi w hwidth)⟩
      | narrow => rw [isInvalid, hwidth] at hinv; cases hinv
    | wrSend j b =>
      obtain ⟨t, ht⟩ := exec_completes (.wrSend j b) s
      exact ⟨t, ht, serves_of_execWrSend ht⟩
    | rdSend | rdRsvd04 | wrRsvd04 | rdMisal1 | rdMisal2 | rdMisal3 | wrMisal1 | wrMisal2 | wrMisal3 | rdOor | wrOor =>
      cases hinv

theorem serves_of_exec {i : Instr} {s t : State} (h : exec i s = .next t) : Serves s i t := by
  obtain ⟨u, hu, hserves⟩ := exec_serves i s
  cases h.symm.trans hu
  exact hserves

/-- R149: an operation raises a line only as a send that passes every test. -/
theorem Serves.edges_cases {i : Instr} {s t : State} (h : Serves s i t) :
    t.edges = s.edges ∨
    ∃ j b k, i = .wrSend j b ∧ s.CanSend j k ∧ b.toNat < (s.slot j).liveBits ∧ t = s.afterSend j k b := by
  cases h with
  | invalid | respond | write | drop => exact .inl rfl
  | send hi hsend hb => exact .inr ⟨_, _, _, hi, hsend, hb, rfl⟩

/-- Settles O44: the case of the inversion that raises a line is the send that passes every test; an idle step keeps
the whole state. -/
theorem onlyCompletedSendsRaiseEdges : Obligations.OnlyCompletedSendsRaiseEdges := by
  refine ⟨fun i s => ?_, fun j b k s hsend hb => ⟨_, hsend.exec_wrSend hb, rfl⟩, fun _ => rfl, fun s t hstep hidle => ?_⟩
  · obtain ⟨t, ht, hserves⟩ := exec_serves i s
    refine ⟨t, ht, hserves.edges_cases.imp_right ?_⟩
    rintro ⟨j, b, k, hi, hsend, hb, rfl⟩
    exact ⟨j, b, k, hi, hsend, hb, rfl⟩
  · obtain ⟨-, ⟨-, rfl⟩ | ⟨m, r, u, hnext, -⟩⟩ := step_cases hstep
    · rfl
    · rw [hidle] at hnext; cases hnext

/-- Settles O46: the operation is a send that passed every test, and the field RD.HIGH answers with has its bit. -/
theorem raisedEdgeFindsItsBitSet : Obligations.RaisedEdgeFindsItsBitSet := by
  intro i s t hexec hedges
  obtain hkept | ⟨j, b, k, hi, -, hb, rfl⟩ := (serves_of_exec hexec).edges_cases
  · exact absurd hkept hedges
  · refine ⟨j, b, _, hi, readDone_eq _ _, ?_⟩
    simp [Slot.getLsbD_live_setLiveBit hb]

/-- Settles O37: every operation completes, and a step is idle or such an operation. -/
theorem everyTransactionCompletes : Obligations.EveryTransactionCompletes := by
  refine ⟨fun r => exec_completes (decode r), fun s hvalid => ?_⟩
  unfold step
  rw [if_pos hvalid]
  cases s.nextTransaction with
  | none => exact ⟨s, rfl⟩
  | some mr =>
    obtain ⟨u, hu⟩ := exec_completes (decode mr.2) s
    exact ⟨u.complete mr.1 mr.2, by simp only [hu]⟩

/-- Settles O40: an effect writes at most the addressed slot and appends at most one edge or event. -/
theorem onlyTheAddressedSlotChanges : Obligations.OnlyTheAddressedSlotChanges := by
  intro i s
  obtain ⟨e, he, hlen⟩ := exec_effect i s
  refine ⟨_, he s rfl fun _ _ => rfl, fun j hj => by rw [e.apply_slot, if_neg hj], rfl, rfl, rfl, rfl,
    List.prefix_append _ _, List.prefix_append _ _, ?_⟩
  simp only [Effect.apply_edges, Effect.apply_diags, List.length_append]
  omega

theorem isInvalid_congr {s t : State} (h : ∀ j, t.slot j = s.slot j) (i : Instr) : isInvalid i t = isInvalid i s := by
  cases i with
  | rdHighHi | wrHighHi => simp only [isInvalid, h]
  | _ => rfl

/-- Settles O43, by induction on the accesses: each emits its event and keeps what makes the others invalid. -/
theorem invalidStreamHasNoEffect : Obligations.InvalidStreamHasNoEffect := by
  intro is
  induction is with
  | nil => exact fun s _ => ⟨s, rfl, rfl, rfl, rfl⟩
  | cons i is ih =>
    intro s hinv
    obtain ⟨hi, hrest⟩ := List.forall_mem_cons.mp hinv
    have hexec := exec_of_isInvalid hi
    obtain ⟨t, ht, hslots, hedges, hdiags⟩ :=
      ih { s with rdata := 0, diags := s.diags ++ [invalidEvent (encode i)] } fun x hx =>
        (isInvalid_congr (fun _ => rfl) x).trans (hrest x hx)
    refine ⟨t, (runOps_cons hexec is).trans ht, hslots, hedges, ?_⟩
    simp only [hdiags, List.length_append, List.length_cons, List.length_nil]
    omega

end Sys2Proof.Machine
end

section
/-! PROOF. Operations served twice, on different slots, and from states that differ in their outputs alone (R48, R54,
R32, R33). -/

namespace Sys2Proof.Machine

/-- An operation that kept every slot keeps them when it is served again. -/
theorem exec_again_of_slots_kept {i : Instr} {s t : State} (h : exec i s = .next t) (hkept : ∀ j, t.slot j = s.slot j) :
    ∃ u, exec i t = .next u ∧ ∀ j, u.slot j = t.slot j := by
  obtain ⟨e, he, -⟩ := exec_effect i s
  obtain rfl : t = e.apply i s := Host.Outcome.next.inj (h.symm.trans (he s rfl fun _ _ => rfl))
  refine ⟨_, he _ rfl fun j _ => hkept j, fun j => ?_⟩
  rw [e.apply_slot, hkept j, ← e.apply_slot i s j, hkept j]

/-- Overwriting the live field twice with one value is overwriting it once (R112). -/
@[simp] theorem Slot.withLive_withLive (v : Slot) (w : Word) : (v.withLive w).withLive w = v.withLive w := by
  cases h : v.width with
  | narrow => simp only [Slot.withLive, h]
  | wide => simp only [Slot.withLive, h]

/-- R114: or-ing a value in twice is or-ing it in once. -/
@[simp] theorem Slot.orWideHigh_orWideHigh (v : Slot) (w : Word) : (v.orWideHigh w).orWideHigh w = v.orWideHigh w := by
  simp only [Slot.orWideHigh, BitVec.or_assoc, BitVec.or_self]

/-- R84: setting a bit that is set changes nothing. -/
@[simp] theorem Slot.setLiveBit_setLiveBit (v : Slot) (b : Word) : (v.setLiveBit b).setLiveBit b = v.setLiveBit b := by
  cases h : v.width with
  | narrow => simp only [Slot.setLiveBit, h, BitVec.or_assoc, BitVec.or_self]
  | wide => simp only [Slot.setLiveBit, h, BitVec.or_assoc, BitVec.or_self]

section SlotWrite
variable {s t : State} {j : SlotIx} {i : Instr} {v : Slot}

theorem SlotWrite.exec_eq (h : SlotWrite s j i v) : exec i s = .next ((s.setSlot j v).respond 0) := by
  cases h with
  | low | high | active => rfl
  | highHi w hwide => exact exec_wrHighHi_of_wide w hwide

/-- A write served again puts the same value in its slot. -/
theorem SlotWrite.again (h : SlotWrite s j i v) (ht : t.slot j = v) : SlotWrite t j i v := by
  cases h with
  | low w => simpa [ht, Slot.withLow] using SlotWrite.low (s := t) (j := j) w
  | high w => simpa [ht] using SlotWrite.high (s := t) (j := j) w
  | active w => simpa [ht, Slot.withActive] using SlotWrite.active (s := t) (j := j) w
  | highHi w hwide => simpa [ht] using SlotWrite.highHi (s := t) (j := j) w (by rw [ht]; exact hwide)

end SlotWrite

theorem Serves.write_rdata {i : Instr} {s t : State} (h : Serves s i t) (hwrite : i.op.isWrite = true) :
    t.rdata = 0 := by
  cases h with
  | respond v hv => exact hv hwrite
  | invalid | write | drop | send => rfl

theorem State.setSlot_slot_of_eq {s : State} {i : SlotIx} {v : Slot} (h : s.slot i = v) (j : SlotIx) :
    (s.setSlot i v).slot j = s.slot j := by
  rw [State.slot_setSlot, ite_eq_right_iff]
  rintro rfl
  exact h.symm

/-- Any operation served twice leaves the register file as once, WR.SEND included (R48). -/
theorem Serves.again_slots {i : Instr} {s t : State} (h : Serves s i t) (hexec : exec i s = .next t) :
    ∃ u, exec i t = .next u ∧ ∀ j, u.slot j = t.slot j := by
  cases h with
  | invalid | respond | drop => exact exec_again_of_slots_kept hexec fun _ => rfl
  | @write j v hwrite =>
    have hslot : ((s.setSlot j v).respond 0).slot j = v := State.slot_setSlot_same s j v
    exact ⟨_, (hwrite.again hslot).exec_eq, State.setSlot_slot_of_eq hslot⟩
  | @send j b k hi hsend hb =>
    subst hi
    have hslot : (s.afterSend j k b).slot j = ((s.afterSend j k b).slot j).setLiveBit b := by simp
    exact ⟨_, (hsend.afterSend b).exec_wrSend (by simpa using hb), State.setSlot_slot_of_eq hslot⟩

/-- Settles O39: what a write puts in its slot is what the slot holds afterwards, and a write answers 0. -/
theorem writesAreIdempotentOnTheSlots : Obligations.WritesAreIdempotentOnTheSlots := by
  intro i s hwrite
  obtain ⟨t, ht, hserves⟩ := exec_serves i s
  obtain ⟨u, hu, hslots⟩ := hserves.again_slots ht
  exact ⟨t, u, ht, hu, hslots, hserves.write_rdata hwrite, (serves_of_exec hu).write_rdata hwrite⟩

/-- Settles O47: each operation has the effect it has from the first state, for neither writes the slot the other
looks at. -/
theorem differentSlotsCommute : Obligations.DifferentSlotsCommute := by
  intro i j a b s hi hj hab
  obtain ⟨e, he, -⟩ := exec_effect i s
  obtain ⟨f, hf, -⟩ := exec_effect j s
  have hij : ∀ c, j.slot? = some c → (e.apply i s).slot c = s.slot c := fun c hc => by
    obtain rfl : b = c := Option.some.inj (hj.symm.trans hc)
    rw [e.apply_slot, hi, if_neg fun h => hab (Option.some.inj h)]
  have hji : ∀ c, i.slot? = some c → (f.apply j s).slot c = s.slot c := fun c hc => by
    obtain rfl : a = c := Option.some.inj (hi.symm.trans hc)
    rw [f.apply_slot, hj, if_neg fun h => hab (Option.some.inj h).symm]
  refine ⟨_, _, _, _, he s rfl fun _ _ => rfl, hf s rfl fun _ _ => rfl, hf _ rfl hij, he _ rfl hji, fun k => ?_, ?_,
    rfl, rfl⟩
  · simp only [Effect.apply_slot, hi, hj, Option.some.injEq]
    by_cases ha : a = k
    · have hb : b ≠ k := fun h => hab (ha.trans h.symm)
      simp only [ha, hb, if_true, if_false]
    · simp only [ha, if_false]
  · simp only [Effect.apply_edges, List.append_assoc]
    exact List.perm_append_comm.append_left s.edges

/-- Two states that agree on the configuration and the register file serve the same operations alike; their responses
agree from the first operation on, or from the start if they agreed there. -/
theorem runOps_congr (is : List Instr) : ∀ s s' : State, s.cfg = s'.cfg → s.slots = s'.slots → ∃ t t' es ds,
    runOps is s = .next t ∧ runOps is s' = .next t' ∧ t.slots = t'.slots ∧
    (is ≠ [] ∨ s.rdata = s'.rdata → t.rdata = t'.rdata) ∧
    t.edges = s.edges ++ es ∧ t'.edges = s'.edges ++ es ∧ t.diags = s.diags ++ ds ∧ t'.diags = s'.diags ++ ds := by
  induction is with
  | nil => exact fun s s' _ hslots => ⟨s, s', [], [], rfl, rfl, hslots, by simp, by simp⟩
  | cons i is ih =>
    intro s s' hcfg hslots
    obtain ⟨e, he, -⟩ := exec_effect i s
    have hs : exec i s = .next (e.apply i s) := he s rfl fun _ _ => rfl
    have hs' : exec i s' = .next (e.apply i s') := he s' hcfg.symm fun _ _ => by rw [State.slot, State.slot, hslots]
    obtain ⟨t, t', es, ds, ht, ht', htslots, hrdata, hes, hes', hds, hds'⟩ :=
      ih (e.apply i s) (e.apply i s') hcfg (by simp only [Effect.apply, hslots])
    refine ⟨t, t', e.edges ++ es, e.diags ++ ds, (runOps_cons hs is).trans ht, (runOps_cons hs' is).trans ht', htslots,
      fun _ => hrdata (.inr rfl), ?_⟩
    simp only [hes, hes', hds, hds', Effect.apply_edges, Effect.apply_diags, List.append_assoc, and_self]

/-- Settles O48: operations look at the configuration and the register file alone. -/
theorem outputsDoNotFeedBack : Obligations.OutputsDoNotFeedBack := by
  intro is s s' hcfg hslots
  obtain ⟨t, t', es, ds, ht, ht', htslots, hrdata, houtputs⟩ := runOps_congr is s s' hcfg hslots
  exact ⟨t, t', es, ds, ht, ht', htslots, fun hne => hrdata (.inl hne), houtputs⟩

end Sys2Proof.Machine
end

section
/-! PROOF. The invariant (R32, R80, R141, R149, R171): construction has it and every step keeps it. -/

namespace Sys2Proof.Machine

/-- R142, R143: the event of an invalid access names an access that is invalid by its request or for one width. -/
theorem invalidEvent_legal {i : Instr} {s : State} (hwf : i.wellFormed = true) (hinv : isInvalid i s = true) :
    (invalidEvent (encode i)).legal = true := by
  have hdecode := decodeOfEncodeIsTheOperation i hwf
  cases i with
  | rdSend | rdRsvd04 | wrRsvd04 | rdHighHi | wrHighHi | rdMisal1 | rdMisal2 | rdMisal3 | wrMisal1 | wrMisal2
  | wrMisal3 | rdOor | wrOor =>
    simp only [encode] at hdecode
    simp [encode, invalidEvent, DiagEvent.legal, hdecode, Instr.op]
  | wrSend | rdLow | wrLow | rdLowHi | wrLowHi | rdHigh | wrHigh | rdActive | wrActive | rdActiveHi | wrActiveHi =>
    cases hinv

theorem isSend_write_regSend (j : SlotIx) (b : Word) : isSend (.write (slotOffset j Config.regSend) b) = true := by
  have hdecode : decode (.write (slotOffset j Config.regSend) b) = .wrSend j b :=
    decodeOfEncodeIsTheOperation (.wrSend j b) rfl
  rw [isSend, hdecode]
  rfl

/-- R144 to R146: the event of a dropped send names the SEND register of its slot. -/
theorem sendEvent_legal {kind : DiagKind} (j : SlotIx) (b : Word)
    (hkind : kind = .targetNotFound ∨ kind = .targetUnwired ∨ kind = .sendRange) :
    DiagEvent.legal ⟨kind, slotOffset j Config.regSend, b⟩ = true := by
  obtain rfl | rfl | rfl := hkind
  all_goals exact isSend_write_regSend j b

/-- What a well-formed operation emits: one edge on an existing line and it is a send, or one legal event, or nothing
(R80, R141, R149). -/
theorem Serves.outputs {i : Instr} {s t : State} (h : Serves s i t) (hwf : i.wellFormed = true) :
    ∃ es ds, t.edges = s.edges ++ es ∧ t.diags = s.diags ++ ds ∧ es.length + ds.length ≤ 1 ∧
      (∀ k ∈ es, k < s.cfg.numHarts.toNat) ∧ (∀ d ∈ ds, d.legal = true) ∧ (es ≠ [] → i.op = .wrSend) := by
  cases h with
  | invalid hinv => exact ⟨[], _, by simp, rfl, by simp, by simp, by simpa using invalidEvent_legal hwf hinv, by simp⟩
  | respond | write => exact ⟨[], [], by simp⟩
  | drop hi hkind => exact ⟨[], _, by simp, rfl, by simp, by simp, by simpa using sendEvent_legal _ _ hkind, by simp⟩
  | @send j b k hi hsend => exact ⟨[k], [], rfl, by simp, by simp, by simpa using hsend.wired, by simp, fun _ => hi ▸ rfl⟩

/-- A served transaction keeps the invariant: what it emits is added to the served transactions with it. -/
theorem State.Inv.complete {s u : State} {m : Nat} {r : Request} (hs : s.Inv) (hexec : exec (decode r) s = .next u) :
    (u.complete m r).Inv := by
  obtain ⟨e, rfl, -⟩ := exec_next_eq_apply hexec
  obtain ⟨es, ds, hedges, hdiags, hlen, hwired, hlegal, hsend⟩ := (serves_of_exec hexec).outputs (decode_wellFormed r)
  have hedges_sent : es.length ≤ if isSend r then 1 else 0 := by
    cases es with
    | nil => exact Nat.zero_le _
    | cons k es =>
      have hr : isSend r = true := beq_iff_eq.mpr (hsend (List.cons_ne_nil k es))
      rw [if_pos hr]
      omega
  have hone := hs.one_output
  have hsent := hs.edges_sent
  constructor
  case cfg_valid => exact hs.cfg_valid
  case slots_wf => exact e.apply_wf _ hs.slots_wf
  case edges_wired =>
    rw [State.complete_edges, hedges, List.forall_mem_append]
    exact ⟨hs.edges_wired, hwired⟩
  case diags_legal =>
    rw [State.complete_diags, hdiags, List.forall_mem_append]
    exact ⟨hs.diags_legal, hlegal⟩
  case one_output =>
    simp only [State.complete_edges, State.complete_diags, State.complete_served, hedges, hdiags, Effect.apply_served,
      List.length_append, List.length_singleton]
    omega
  case edges_sent =>
    simp only [State.complete_edges, State.complete_served, hedges, Effect.apply_served, List.length_append,
      List.countP_append, List.countP_singleton]
    omega

/-- Settles O58: an idle step changes nothing, and any other serves one transaction. -/
theorem stepKeepsTheInvariant : Obligations.StepKeepsTheInvariant := by
  intro s t hs hstep
  obtain ⟨-, ⟨-, rfl⟩ | ⟨m, r, u, -, hexec, rfl⟩⟩ := step_cases hstep
  · exact hs
  · exact hs.complete hexec

/-- Settles O59: nothing has been emitted or served, and the empty register file is in canonical form. -/
theorem constructionHasTheInvariant : Obligations.ConstructionHasTheInvariant := by
  have hinv : ∀ cfg : Configuration, configValid cfg = true → (State.construct cfg).Inv := fun cfg hvalid =>
    ⟨hvalid, SlotTable.wf_nil, nofun, nofun, Nat.le_refl 0, Nat.le_refl 0⟩
  exact ⟨hinv, hinv Config.resetConfiguration (by decide)⟩

end Sys2Proof.Machine
end

section
/-! PROOF. WR.SEND to a wired and to an unwired target, in and out of range (R80, R82, R83, R145, R146, R150, R173). -/

namespace Sys2Proof.Machine

section LineOf
variable {cfg : Configuration} {h : HartId}

theorem lineOf_eq_none_iff : lineOf cfg h = none ↔
    h.toNat < cfg.hartIdBase.toNat ∨ cfg.hartIdBase.toNat + cfg.numHarts.toNat ≤ h.toNat := by
  refine ⟨lineOf_eq_none, fun hout => ?_⟩
  rw [lineOf, if_neg (by omega)]

/-- A hart has a line exactly when its id lies among the wired ids. -/
theorem lineOf_eq_some_iff {k : Nat} : lineOf cfg h = some k ↔
    k < cfg.numHarts.toNat ∧ cfg.hartIdBase.toNat + k = h.toNat := by
  refine ⟨lineOf_eq_some, fun ⟨hk, hh⟩ => ?_⟩
  rw [lineOf, if_pos (by omega), ← hh, Nat.add_sub_cancel_left]

end LineOf

section ValidConfiguration
variable {cfg : Configuration}

/-- R9 (D19): the id of a wired hart does not wrap. -/
theorem wiredHart_toNat (hfit : cfg.hartIdBase.toNat + cfg.numHarts.toNat ≤ 2 ^ 32) {k : Nat}
    (hk : k < cfg.numHarts.toNat) : (wiredHart cfg k).toNat = cfg.hartIdBase.toNat + k := by
  rw [wiredHart, BitVec.toNat_add, BitVec.toNat_ofNat]
  omega

/-- The wired harts are the ids in `[hartIdBase, hartIdBase + numHarts)`. -/
theorem mem_wiredHarts_iff (hfit : cfg.hartIdBase.toNat + cfg.numHarts.toNat ≤ 2 ^ 32) {h : HartId} :
    h ∈ wiredHarts cfg ↔
      cfg.hartIdBase.toNat ≤ h.toNat ∧ h.toNat < cfg.hartIdBase.toNat + cfg.numHarts.toNat := by
  simp only [wiredHarts, List.mem_map, List.mem_range]
  constructor
  · rintro ⟨k, hk, rfl⟩
    have hid := wiredHart_toNat hfit hk
    omega
  · rintro ⟨hlo, hhi⟩
    have hk : h.toNat - cfg.hartIdBase.toNat < cfg.numHarts.toNat := by omega
    refine ⟨_, hk, BitVec.eq_of_toNat_eq ?_⟩
    rw [wiredHart_toNat hfit hk]
    omega

/-- R171 as propositions about the configuration's numbers and harts. -/
theorem configValid_iff : configValid cfg = true ↔
    cfg.numHarts.toNat ≤ 512 ∧ cfg.baseAddress.toNat % 32 = 0 ∧ 1 ≤ cfg.numHarts.toNat ∧
    cfg.hartIdBase.toNat + cfg.numHarts.toNat ≤ 2 ^ 32 ∧ cfg.baseAddress.toNat + 0x4000 ≤ 2 ^ 64 ∧
    ∀ h ∈ wiredHarts cfg, hartPresent cfg h = true := by
  have haligned : cfg.baseAddress.extractLsb' 0 5 = 0 ↔ cfg.baseAddress.toNat % 32 = 0 := by
    rw [← BitVec.toNat_inj, BitVec.extractLsb'_toNat]
    rfl
  simp only [configValid, hartsFit, baseAligned, hartsSome, hartIdsFit, windowFits, wiredPresent, Bool.and_eq_true,
    decide_eq_true_eq, beq_iff_eq, List.all_eq_true, haligned, and_assoc]
  rfl

end ValidConfiguration

/-- Settles O27: D13 makes every wired hart present, and a hart has a line exactly when it is wired. -/
theorem validConfigurationResolvesExactlyWiredHarts : Obligations.ValidConfigurationResolvesExactlyWiredHarts := by
  intro cfg h hvalid
  obtain ⟨-, -, -, hfit, -, hpresent⟩ := configValid_iff.mp hvalid
  simp only [lineOf_eq_some_iff, zextHart_toNat]
  constructor
  · rintro ⟨k, -, hk, htarget⟩
    omega
  · rintro ⟨hlo, hhi⟩
    have hwired : zextHart h ∈ wiredHarts cfg := (mem_wiredHarts_iff hfit).mpr (by rw [zextHart_toNat]; exact ⟨hlo, hhi⟩)
    exact ⟨h.toNat - cfg.hartIdBase.toNat, hpresent _ hwired, by omega, by omega⟩

/-- Settles O28: no wired hart id wraps (D19), so line `k` is the distance of its hart from `hartIdBase`. -/
theorem linesAreWiredToConsecutiveHarts : Obligations.LinesAreWiredToConsecutiveHarts := by
  intro cfg k hvalid hk
  obtain ⟨-, -, -, hfit, -⟩ := configValid_iff.mp hvalid
  have hid := wiredHart_toNat hfit hk
  exact ⟨hid, lineOf_eq_some_iff.mpr ⟨hk, hid.symm⟩⟩

section Send
variable {s : State} {i : SlotIx}

/-- R145 (D13): a present target without a line ends the send before the range test. -/
theorem exec_wrSend_of_unwired (b : Word) (hactive : (s.slot i).active = true)
    (hpresent : hartPresent s.cfg (zextHart (s.slot i).targetHart) = true)
    (hline : lineOf s.cfg (zextHart (s.slot i).targetHart) = none) :
    exec (.wrSend i b) s = dropSend .targetUnwired i b s := by
  simp [exec, execWrSend, hactive, hpresent, hline]

/-- R146 (D12): the range test is the last. -/
theorem State.CanSend.exec_wrSend_of_outOfRange {k : Nat} {b : Word} (h : s.CanSend i k)
    (hb : (s.slot i).liveBits ≤ b.toNat) : exec (.wrSend i b) s = dropSend .sendRange i b s := by
  have hrange : (s.slot i).inRange b = false := decide_eq_false hb.not_gt
  simp [exec, execWrSend, h.active, h.present, h.lineOf_eq, hrange]

end Send

/-- Settles O23: the line of a target outside the wired ids is none. -/
theorem sendToUnwiredHartIsReported : Obligations.SendToUnwiredHartIsReported := by
  intro i off b s hoff hactive hpresent hout
  obtain rfl : off = slotOffset i Config.regSend := eq_slotOffset_of_toNat hoff
  have hline : lineOf s.cfg (zextHart (s.slot i).targetHart) = none :=
    lineOf_eq_none_iff.mpr (by rw [zextHart_toNat]; exact hout)
  exact (exec_wrSend_of_unwired b hactive hpresent hline).trans (dropSend_eq ..)

section LiveBits
variable {v : Slot}

theorem Slot.liveBits_of_narrow (h : v.width = .narrow) : v.liveBits = 32 := by
  simp only [Slot.liveBits, h]

theorem Slot.liveBits_of_wide (h : v.width = .wide) : v.liveBits = 64 := by
  simp only [Slot.liveBits, h]

end LiveBits

/-- Settles O24: the bit position is compared with the width's number of bits on all 64 bits (D12). -/
theorem sendOutOfRangeIsRejected : Obligations.SendOutOfRangeIsRejected := by
  intro i off b k s hoff hsend hb
  obtain rfl : off = slotOffset i Config.regSend := eq_slotOffset_of_toNat hoff
  have hrange : (s.slot i).liveBits ≤ b.toNat := by
    obtain ⟨hwidth, hle⟩ | ⟨hwidth, hle⟩ := hb
    · rwa [Slot.liveBits_of_narrow hwidth]
    · rwa [Slot.liveBits_of_wide hwidth]
  exact (hsend.exec_wrSend_of_outOfRange hrange).trans (dropSend_eq ..)

section SetLiveBit
variable {v : Slot} {b : Word}

theorem Slot.setLiveBit_of_narrow (h : v.width = .narrow) :
    v.setLiveBit b = { v with pendingNarrow := v.pendingNarrow ||| ((1 : BitVec 32) <<< b.toNat) } := by
  simp only [Slot.setLiveBit, h]

theorem Slot.setLiveBit_of_wide (h : v.width = .wide) :
    v.setLiveBit b = { v with pendingWide := v.pendingWide ||| ((1 : BitVec 64) <<< b.toNat) } := by
  simp only [Slot.setLiveBit, h]

theorem Slot.getLsbD_pendingNarrow_setLiveBit (h : v.width = .narrow) (hb : b.toNat < 32) (p : Nat) :
    (v.setLiveBit b).pendingNarrow.getLsbD p = (v.pendingNarrow.getLsbD p || decide (p = b.toNat)) := by
  rw [Slot.setLiveBit_of_narrow h, BitVec.getLsbD_or, getLsbD_one_shiftLeft hb]

theorem Slot.getLsbD_pendingWide_setLiveBit (h : v.width = .wide) (hb : b.toNat < 64) (p : Nat) :
    (v.setLiveBit b).pendingWide.getLsbD p = (v.pendingWide.getLsbD p || decide (p = b.toNat)) := by
  rw [Slot.setLiveBit_of_wide h, BitVec.getLsbD_or, getLsbD_one_shiftLeft hb]

end SetLiveBit

theorem State.slot_afterSend_ne {s : State} {i j : SlotIx} (k : Nat) (b : Word) (h : j ≠ i) :
    (s.afterSend i k b).slot j = s.slot j :=
  State.slot_setSlot_ne s _ h

/-- Settles O25: a send that passes every test leaves `afterSend`, whose live field has the bit `b` added. -/
theorem sendSetsOneBitAndRaisesOneEdge : Obligations.SendSetsOneBitAndRaisesOneEdge := by
  refine ⟨.of_decodeWrite (reg := Config.regSend) (fun i w => by simp [decodeWrite]) (by decide),
    fun i b k s hsend hb => ?_⟩
  have hslot : (s.afterSend i k b).slot i = (s.slot i).setLiveBit b := State.slot_afterSend b
  have hrange : b.toNat < (s.slot i).liveBits := by
    obtain ⟨hwidth, hlt⟩ | ⟨hwidth, hlt⟩ := hb
    · rwa [Slot.liveBits_of_narrow hwidth]
    · rwa [Slot.liveBits_of_wide hwidth]
  refine ⟨_, hsend.exec_wrSend hrange, fun j hj => State.slot_afterSend_ne k b hj, rfl, fun hwidth => ?_,
    fun hwidth => ?_⟩
  · rw [Slot.liveBits_of_narrow hwidth] at hrange
    rw [hslot]
    exact ⟨by simp only [Slot.setLiveBit_of_narrow hwidth],
      fun p _ => Slot.getLsbD_pendingNarrow_setLiveBit hwidth hrange p⟩
  · rw [Slot.liveBits_of_wide hwidth] at hrange
    rw [hslot]
    exact ⟨by simp only [Slot.setLiveBit_of_wide hwidth],
      fun p _ => Slot.getLsbD_pendingWide_setLiveBit hwidth hrange p⟩

/-- Sends to an inactive slot, however many, are no-ops (R81). -/
theorem runOps_wrSend_of_inactive {i : SlotIx} (bs : List Word) : ∀ s : State, (s.slot i).active = false →
    ∃ t, runOps (bs.map (Instr.wrSend i)) s = .next t ∧ (∀ j, t.slot j = s.slot j) ∧ t.edges = s.edges ∧
      t.diags = s.diags := by
  induction bs with
  | nil => exact fun s _ => ⟨s, rfl, fun _ => rfl, rfl, rfl⟩
  | cons b bs ih =>
    intro s hinactive
    obtain ⟨t, ht, hkept⟩ := ih (s.respond 0) hinactive
    exact ⟨t, (runOps_cons (exec_wrSend_of_inactive b hinactive) _).trans ht, hkept⟩

theorem exec_wrActive (i : SlotIx) (w : Word) (s : State) :
    exec (.wrActive i w) s = .next ((s.setSlot i ((s.slot i).withActive (isNonzero w))).respond 0) := rfl

/-- Settles O36: the disable leaves the slot inactive, and then every send is a no-op. -/
theorem disabledSlotIgnoresSends : Obligations.DisabledSlotIgnoresSends := by
  intro i bs s
  have hslot : ((s.setSlot i ((s.slot i).withActive (isNonzero 0))).respond 0).slot i =
      { s.slot i with active := false } := State.slot_setSlot_same s i _
  obtain ⟨t, ht, hkept, hedges, hdiags⟩ := runOps_wrSend_of_inactive (i := i) bs _ (by rw [hslot])
  exact ⟨t, (runOps_cons (exec_wrActive i 0 s) _).trans ht, (hkept i).trans hslot,
    fun j hj => (hkept j).trans (State.slot_setSlot_ne s _ hj), hedges, hdiags⟩

end Sys2Proof.Machine
end

section
/-! PROOF. The registers LOW, HIGH, ACTIVE and offset 0x04, one operation at a time (R90, R101, R112, R113, R121). -/

namespace Sys2Proof.Machine

@[simp] theorem Width.bit_ofBit (b : Bool) : (Width.ofBit b).bit = b := by
  cases b with
  | false => rfl
  | true => rfl

theorem Width.ofBit_eq_wide_iff (b : Bool) : Width.ofBit b = .wide ↔ b = true := by
  rw [← Width.bit_eq_true_iff, Width.bit_ofBit]

theorem isNonzero_eq (w : Word) : isNonzero w = decide (w.toNat ≠ 0) := by
  rw [isNonzero, Bool.eq_iff_iff, bne_iff_ne, decide_eq_true_iff]
  exact not_congr BitVec.toNat_eq

theorem exec_wrLow (i : SlotIx) (w : Word) (s : State) :
    exec (.wrLow i w) s = .next ((s.setSlot i ((s.slot i).withLow w)).respond 0) := rfl

theorem exec_wrHigh (i : SlotIx) (w : Word) (s : State) :
    exec (.wrHigh i w) s = .next ((s.setSlot i ((s.slot i).withLive w)).respond 0) := rfl

theorem exec_rdLow (i : SlotIx) (s : State) : exec (.rdLow i) s = .next (s.respond (packLow (s.slot i))) := rfl

theorem exec_rdHigh (i : SlotIx) (s : State) : exec (.rdHigh i) s = .next (s.respond (s.slot i).live) := rfl

theorem exec_rdActive (i : SlotIx) (s : State) :
    exec (.rdActive i) s = .next (s.respond (zext1 (s.slot i).active)) := rfl

section WithLive
variable {v : Slot} (w : Word)

theorem Slot.withLive_of_wide (h : v.width = .wide) : v.withLive w = { v with pendingWide := w } := by
  simp only [Slot.withLive, h]

theorem Slot.withLive_of_narrow (h : v.width = .narrow) : v.withLive w = { v with pendingNarrow := lowHalf w } := by
  simp only [Slot.withLive, h]

end WithLive

section RdHighHi
variable {s : State} {i : SlotIx}

theorem exec_rdHighHi_of_narrow (h : (s.slot i).width = .narrow) :
    exec (.rdHighHi i) s = readDone (zext32 (highHalf (s.slot i).pendingWide)) s := by
  simp only [exec, execRdHighHi, h]

theorem exec_rdHighHi_of_wide (h : (s.slot i).width = .wide) :
    exec (.rdHighHi i) s = invalidRead (slotOffset i Config.regHighHi) s := by
  simp only [exec, execRdHighHi, h]

end RdHighHi

/-- Settles O9: both directions are the one policy of R130 at the slot's offset 0x04. -/
theorem offset04IsInvalid : Obligations.Offset04IsInvalid := by
  refine ⟨.of_decodeRead (reg := Config.regRsvd04) (fun i => by simp [decodeRead]) (by decide),
    .of_decodeWrite (reg := Config.regRsvd04) (fun i w => by simp [decodeWrite]) (by decide), fun i off w s hoff => ?_⟩
  obtain rfl : off = slotOffset i Config.regRsvd04 := eq_slotOffset_of_toNat hoff
  exact ⟨invalidRead_eq _ s, invalidWrite_eq _ w s⟩

/-- Settles O11: the slot becomes its `withLow`. -/
theorem wrLowOverwritesTargetAndMode : Obligations.WrLowOverwritesTargetAndMode := by
  refine ⟨.of_decodeWrite (reg := Config.regLow) (fun i w => by simp [decodeWrite]) (by decide), fun i w s => ?_⟩
  refine ⟨_, exec_wrLow i w s, .of_setSlot s i _, ?_⟩
  rw [State.slot_respond, State.slot_setSlot_same]
  exact ⟨rfl, Width.ofBit_eq_wide_iff _, rfl, rfl, rfl⟩

/-- Settles O14: the slot becomes its `withLive`. -/
theorem wrHighOverwritesTheLiveField : Obligations.WrHighOverwritesTheLiveField := by
  refine ⟨.of_decodeWrite (reg := Config.regHigh) (fun i w => by simp [decodeWrite]) (by decide), fun i w s => ?_⟩
  refine ⟨_, exec_wrHigh i w s, .of_setSlot s i _, ?_⟩
  rw [State.slot_respond, State.slot_setSlot_same]
  exact ⟨Slot.withLive_of_wide w, Slot.withLive_of_narrow w⟩

/-- Settles O15: when Narrow the response is the upper half of the Wide field in its low half (D8), when Wide the read
is the one policy of R130 at the slot's HIGH_HI offset (D9). -/
theorem rdHighHiIsValidOnlyWhenNarrow : Obligations.RdHighHiIsValidOnlyWhenNarrow := by
  refine ⟨.of_decodeRead (reg := Config.regHighHi) (fun i => by simp [decodeRead]) (by decide),
    fun i off s hoff => ⟨fun hnarrow => ?_, fun hwide => ?_⟩⟩
  · exact ⟨_, exec_rdHighHi_of_narrow hnarrow, lowHalf_zext32 _, highHalf_zext32 _⟩
  · obtain rfl : off = slotOffset i Config.regHighHi := eq_slotOffset_of_toNat hoff
    exact exec_rdHighHi_of_wide hwide

/-- Settles O18: the slot becomes its `withActive`, for a datum tested on all 64 bits (D11). -/
theorem wrActiveWritesOnlyActive : Obligations.WrActiveWritesOnlyActive := by
  refine ⟨.of_decodeWrite (reg := Config.regActive) (fun i w => by simp [decodeWrite]) (by decide), fun i w s => ?_⟩
  refine ⟨_, exec_wrActive i w s, .of_setSlot s i _, ?_⟩
  rw [State.slot_respond, State.slot_setSlot_same]
  refine ⟨rfl, ?_⟩
  change isNonzero w = true ↔ w.toNat ≠ 0
  rw [isNonzero_eq, decide_eq_true_iff]

end Sys2Proof.Machine
end

section
/-! PROOF. Sequences of writes and reads of one slot (R104, R105, R115, R116, R175, R177). -/

namespace Sys2Proof.Machine

theorem extractLsb'_one (w : Word) (p : Nat) : w.extractLsb' p 1 = BitVec.ofBool (w.getLsbD p) := by
  ext n hn
  obtain rfl : n = 0 := by omega
  simp

/-- `wdata` by the fields WR.LOW looks at (R101) and what lies between them. -/
theorem eq_append_lowFields (w : Word) : w = highHalf w ++
    (hartField w ++ w.extractLsb' 2 14 ++ BitVec.ofBool (w.getLsbD 1) ++ BitVec.ofBool (w.getLsbD 0)) := by
  have hgap : hartField w ++ w.extractLsb' 2 14 = w.extractLsb' 2 30 :=
    BitVec.extractLsb'_append_extractLsb'_eq_extractLsb' rfl
  have hwidth : w.extractLsb' 2 30 ++ w.extractLsb' 1 1 = w.extractLsb' 1 31 :=
    BitVec.extractLsb'_append_extractLsb'_eq_extractLsb' rfl
  have hactive : w.extractLsb' 1 31 ++ w.extractLsb' 0 1 = lowHalf w :=
    BitVec.extractLsb'_append_extractLsb'_eq_extractLsb' rfl
  have hall : highHalf w ++ lowHalf w = w :=
    (BitVec.extractLsb'_append_extractLsb'_eq_extractLsb' rfl).trans BitVec.extractLsb'_eq_self
  rw [← extractLsb'_one, ← extractLsb'_one, hgap, hwidth, hactive, hall]

/-- R104: what WR.LOW stores of its datum, read back by RD.LOW. -/
theorem packLow_withLow (v : Slot) (w : Word) : packLow (v.withLow w) = w &&& 0x00000000FFFF0003 := by
  have hmask : (0x00000000FFFF0003 : Word) =
      0#32 ++ (BitVec.allOnes 16 ++ 0#14 ++ BitVec.allOnes 1 ++ BitVec.allOnes 1) := by
    decide
  conv => rhs; rw [eq_append_lowFields w, hmask]
  rw [BitVec.and_append, BitVec.and_append, BitVec.and_append, BitVec.and_append, BitVec.and_zero, BitVec.and_zero,
    BitVec.and_allOnes, BitVec.and_allOnes, BitVec.and_allOnes, packLow_eq_append, Slot.withLow, Width.bit_ofBit]

/-- The datum CONFIG writes (R73) has nothing outside the fields of LOW. -/
theorem configData_and_mask (h : BitVec 16) (m : BitVec 2) :
    (h ++ (0 : BitVec 14) ++ m).setWidth 64 &&& 0x00000000FFFF0003 = (h ++ (0 : BitVec 14) ++ m).setWidth 64 := by
  have hmask : (0x00000000FFFF0003 : Word) = 0#32 ++ (BitVec.allOnes 16 ++ 0#14 ++ BitVec.allOnes 2) := by decide
  have hdata : (h ++ (0 : BitVec 14) ++ m).setWidth 64 = 0#32 ++ (h ++ 0#14 ++ m) :=
    BitVec.setWidth_eq_append (by decide)
  rw [hdata, hmask, BitVec.and_append, BitVec.and_append, BitVec.and_append, BitVec.and_zero, BitVec.and_zero,
    BitVec.and_allOnes, BitVec.and_allOnes]

theorem configData_toNat (h : BitVec 16) (m : BitVec 2) :
    ((h ++ (0 : BitVec 14) ++ m).setWidth 64).toNat = h.toNat * 2 ^ 16 + m.toNat := by
  rw [BitVec.toNat_setWidth_of_le (by decide), BitVec.toNat_append, BitVec.toNat_append,
    ← Nat.shiftLeft_add_eq_or_of_lt m.isLt]
  simp [Nat.shiftLeft_eq]
  omega

theorem runOps_wrLow_rdLow (i : SlotIx) (w : Word) (s : State) :
    ∃ t, runOps [.wrLow i w, .rdLow i] s = .next t ∧ t.rdata = w &&& 0x00000000FFFF0003 := by
  refine ⟨_, (runOps_cons (exec_wrLow i w s) _).trans (runOps_cons (exec_rdLow i _) _), ?_⟩
  rw [State.respond_rdata, State.slot_respond, State.slot_setSlot_same, packLow_withLow]

/-- Settles O29: `packLow` of a slot written by WR.LOW is the masked datum, and CONFIG's datum is its own masked form. -/
theorem lowRoundTrips : Obligations.LowRoundTrips := by
  refine ⟨runOps_wrLow_rdLow, fun i h m s => ?_⟩
  obtain ⟨t, ht, hrdata⟩ := runOps_wrLow_rdLow i ((h ++ (0 : BitVec 14) ++ m).setWidth 64) s
  exact ⟨t, ht, by rw [hrdata, configData_and_mask, configData_toNat]⟩

/-- R115: the zero-extended low half as a masked word. -/
theorem zext32_lowHalf (w : Word) : zext32 (lowHalf w) = w &&& 0x00000000FFFFFFFF := by
  have hmask : (0x00000000FFFFFFFF : Word) = 0#32 ++ BitVec.allOnes 32 := by decide
  have hall : highHalf w ++ lowHalf w = w :=
    (BitVec.extractLsb'_append_extractLsb'_eq_extractLsb' rfl).trans BitVec.extractLsb'_eq_self
  conv => rhs; rw [← hall, hmask, BitVec.and_append, BitVec.and_allOnes, BitVec.and_zero]
  exact zext32_eq_append _

section LiveAfterWrite
variable {v : Slot}

theorem Slot.live_withLive_of_wide (w : Word) (h : v.width = .wide) : (v.withLive w).live = w := by
  rw [Slot.withLive_of_wide w h]
  exact Slot.live_of_wide h

theorem Slot.live_withLive_of_narrow (w : Word) (h : v.width = .narrow) :
    (v.withLive w).live = w &&& 0x00000000FFFFFFFF := by
  rw [Slot.withLive_of_narrow w h]
  exact (Slot.live_of_narrow (v := { v with pendingNarrow := lowHalf w }) h).trans (zext32_lowHalf w)

/-- R116: WR.HIGH then WR.HIGH_HI on a Wide slot put the two halves together. -/
theorem Slot.live_orWideHigh_withLive_of_wide (x : Word) (y : BitVec 32) (h : v.width = .wide) :
    ((v.withLive x).orWideHigh (y.setWidth 64)).live = x ||| (y.setWidth 64 <<< 32) := by
  have hy : lowHalf (y.setWidth 64) = y := lowHalf_zext32 y
  rw [Slot.withLive_of_wide x h, Slot.orWideHigh, hy]
  exact Slot.live_of_wide h

@[simp] theorem Slot.live_withLive_zero (v : Slot) : (v.withLive 0).live = 0 := by
  cases h : v.width with
  | narrow => exact (Slot.live_withLive_of_narrow 0 h).trans BitVec.zero_and
  | wide => exact Slot.live_withLive_of_wide 0 h

@[simp] theorem Slot.withLive_width (v : Slot) (w : Word) : (v.withLive w).width = v.width := by
  cases h : v.width with
  | narrow => rw [Slot.withLive_of_narrow w h, h]
  | wide => rw [Slot.withLive_of_wide w h, h]

end LiveAfterWrite

/-- Settles O30: the live field is what the writes put together, and RD.HIGH answers with it. -/
theorem highRoundTrips : Obligations.HighRoundTrips := by
  constructor
  · intro i x y s hwide
    have hslot : ((s.setSlot i ((s.slot i).withLive x)).respond 0).slot i = (s.slot i).withLive x :=
      State.slot_setSlot_same s i _
    have hwide' : (((s.setSlot i ((s.slot i).withLive x)).respond 0).slot i).width = .wide := by
      rw [hslot, Slot.withLive_width, hwide]
    refine ⟨_, (runOps_cons (exec_wrHigh i x s) _).trans
      ((runOps_cons (exec_wrHighHi_of_wide _ hwide') _).trans (runOps_cons (exec_rdHigh i _) _)), ?_⟩
    rw [State.respond_rdata, State.slot_respond, State.slot_setSlot_same, hslot,
      Slot.live_orWideHigh_withLive_of_wide x y hwide]
  · intro i x s hnarrow
    refine ⟨_, (runOps_cons (exec_wrHigh i x s) _).trans (runOps_cons (exec_rdHigh i _) _), ?_⟩
    rw [State.respond_rdata, State.slot_respond, State.slot_setSlot_same, Slot.live_withLive_of_narrow x hnarrow]

/-- Settles O31, by induction on the writes before the last: each changes `active` alone, which the last one
overwrites. -/
theorem activeWritesPreserveTheRest : Obligations.ActiveWritesPreserveTheRest := by
  intro i ws w
  induction ws with
  | nil =>
    intro s
    refine ⟨_, runOps_cons (exec_wrActive i w s) [], ?_, fun j hj => State.slot_setSlot_ne s _ hj⟩
    rw [State.slot_respond, State.slot_setSlot_same, Slot.withActive, isNonzero_eq]
  | cons a ws ih =>
    intro s
    obtain ⟨t, ht, hslot, hothers⟩ := ih ((s.setSlot i ((s.slot i).withActive (isNonzero a))).respond 0)
    refine ⟨t, (runOps_cons (exec_wrActive i a s) _).trans ht, ?_,
      fun j hj => (hothers j hj).trans (State.slot_setSlot_ne s _ hj)⟩
    rw [hslot, State.slot_respond, State.slot_setSlot_same, Slot.withActive]

theorem zext1_toNat (b : Bool) : (zext1 b).toNat = b.toNat := by
  rw [zext1, BitVec.toNat_setWidth_of_le (by decide), BitVec.toNat_ofBool]

/-- R105: `active` is bit 0 of RD.LOW and no other. -/
theorem getLsbD_packLow_withActive (v : Slot) (b : Bool) {p : Nat} (hp : 0 < p) :
    (packLow (v.withActive b)).getLsbD p = (packLow v).getLsbD p := by
  have hbit : ¬ p < 1 := by omega
  simp only [packLow_eq_append, Slot.withActive, BitVec.getLsbD_append, hbit, if_false]

/-- Settles O32: both registers show the one field `active`, RD.LOW as its bit 0. -/
theorem lowAndActiveShareTheActiveBit : Obligations.LowAndActiveShareTheActiveBit := by
  constructor
  · intro i w s
    refine ⟨_, (runOps_cons (exec_wrLow i w s) _).trans (runOps_cons (exec_rdActive i _) _), ?_⟩
    rw [State.respond_rdata, State.slot_respond, State.slot_setSlot_same, zext1_toNat]
    rfl
  · intro i w s
    refine ⟨_, _, _, exec_rdLow i s, (runOps_cons (exec_wrActive i w s) _).trans (runOps_cons (exec_rdLow i _) _),
      exec_rdActive i _, ?_⟩
    simp only [State.respond_rdata, State.slot_respond, State.slot_setSlot_same, packLow_active, zext1_bit, true_and]
    exact ⟨isNonzero_eq w, fun p hp => getLsbD_packLow_withActive _ _ hp⟩

/-- Settles O33: WR.LOW keeps both pending fields, and RD.HIGH answers with the one of the new width. -/
theorem switchingWidthKeepsBothFields : Obligations.SwitchingWidthKeepsBothFields := by
  intro i w s
  refine ⟨_, _, exec_wrLow i w s, exec_rdHigh i _, ?_⟩
  simp only [State.respond_rdata, State.slot_respond, State.slot_setSlot_same]
  refine ⟨rfl, rfl, ?_⟩
  cases hbit : w.getLsbD 1 with
  | true => exact Slot.live_of_wide ((Width.ofBit_eq_wide_iff _).mpr hbit)
  | false =>
    refine Slot.live_of_narrow ?_
    rw [Slot.withLow, hbit]
    rfl

/-- R175: on one slot, WR.LOW 2 makes it Wide, and each WR.HIGH 0 then clears the field the width selects. -/
theorem Slot.reset_sequence (v : Slot) :
    (((v.withLow 2).withLive 0).withLow 0).withLive 0 = Slot.zero := rfl

/-- What a slot write leaves, with the next state named only by what it holds. -/
theorem SlotWrite.exec_frame {s : State} {j : SlotIx} {i : Instr} {v : Slot} (h : SlotWrite s j i v) :
    ∃ t, exec i s = .next t ∧ t.slot j = v ∧ (∀ k, k ≠ j → t.slot k = s.slot k) ∧ t.edges = s.edges ∧
      t.diags = s.diags :=
  ⟨_, h.exec_eq, State.slot_setSlot_same s j v, fun _ hk => State.slot_setSlot_ne s v hk, rfl, rfl⟩

/-- Settles O34: the four writes put the sequence of `Slot.reset_sequence` in the slot. -/
theorem softwareResetsOneSlot : Obligations.SoftwareResetsOneSlot := by
  intro i s
  obtain ⟨s₁, h₁, hslot₁, hothers₁, hedges₁, hdiags₁⟩ := (SlotWrite.low (s := s) (j := i) 2).exec_frame
  obtain ⟨s₂, h₂, hslot₂, hothers₂, hedges₂, hdiags₂⟩ := (SlotWrite.high (s := s₁) (j := i) 0).exec_frame
  obtain ⟨s₃, h₃, hslot₃, hothers₃, hedges₃, hdiags₃⟩ := (SlotWrite.low (s := s₂) (j := i) 0).exec_frame
  obtain ⟨s₄, h₄, hslot₄, hothers₄, hedges₄, hdiags₄⟩ := (SlotWrite.high (s := s₃) (j := i) 0).exec_frame
  refine ⟨s₄, ?_, ?_, fun j hj => ?_, ?_, ?_⟩
  · rw [runOps_cons h₁, runOps_cons h₂, runOps_cons h₃, runOps_cons h₄, runOps]
  · rw [hslot₄, hslot₃, hslot₂, hslot₁]
    exact Slot.reset_sequence (s.slot i)
  · rw [hothers₄ j hj, hothers₃ j hj, hothers₂ j hj, hothers₁ j hj]
  · rw [hedges₄, hedges₃, hedges₂, hedges₁]
  · rw [hdiags₄, hdiags₃, hdiags₂, hdiags₁]

/-- Settles O35: the read answers with the old live field, the send adds its bit and raises its edge, and the clear
leaves a live field of 0. -/
theorem clearLosesASendServedInBetween : Obligations.ClearLosesASendServedInBetween := by
  intro i b k s hsend hb
  have hsend' : (s.respond (s.slot i).live).CanSend i k := ⟨hsend.active, hsend.present, hsend.target, hsend.wired⟩
  refine ⟨_, _, _, exec_rdHigh i s, (runOps_cons (hsend'.exec_wrSend hb) _).trans (runOps_cons (exec_wrHigh i 0 _) _),
    exec_rdHigh i _, rfl, ?_, rfl⟩
  rw [State.respond_rdata, State.slot_respond, State.slot_setSlot_same, Slot.live_withLive_zero]

/-- Settles O50: a slot of the empty register file is `Slot.zero`, which is Narrow and inactive. -/
theorem constructionLeavesEverySlotZero : Obligations.ConstructionLeavesEverySlotZero := by
  intro cfg i b
  refine ⟨rfl, rfl, rfl, ?_⟩
  simp only [List.forall_mem_cons, List.not_mem_nil, false_implies, implies_true, and_true]
  have hread : ∀ (x : Instr) (v : Word), exec x (State.construct cfg) = readDone v (State.construct cfg) → v = 0 →
      exec x (State.construct cfg) = .next { State.construct cfg with rdata := 0 } := by
    rintro x _ hexec rfl
    exact hexec
  exact ⟨hread _ (packLow Slot.zero) rfl (by decide), hread _ 0 rfl rfl, hread _ Slot.zero.live rfl (by decide),
    hread _ (zext32 (highHalf Slot.zero.pendingWide)) rfl (by decide), hread _ (zext1 Slot.zero.active) rfl (by decide),
    hread _ 0 rfl rfl, exec_wrSend_of_inactive b rfl⟩

end Sys2Proof.Machine
end

section
/-! PROOF. What sets and what clears a pending bit (R117). -/

namespace Sys2Proof.Machine

/-- What a slot can hold after an operation: what it held, or what a write or a send to it puts there. -/
theorem Serves.slot_cases {i : Instr} {s t : State} (h : Serves s i t) (j : SlotIx) :
    t.slot j = s.slot j ∨ SlotWrite s j i (t.slot j) ∨
    ∃ b k, i = .wrSend j b ∧ s.CanSend j k ∧ b.toNat < (s.slot j).liveBits ∧ t.slot j = (s.slot j).setLiveBit b := by
  cases h with
  | invalid | respond | drop => exact .inl rfl
  | @write a v hwrite =>
    by_cases hj : j = a
    · subst hj
      exact .inr (.inl (by simpa using hwrite))
    · exact .inl (State.slot_setSlot_ne s v hj)
  | @send a b k hi hsend hb =>
    by_cases hj : j = a
    · subst hj
      exact .inr (.inr ⟨b, k, hi, hsend, hb, State.slot_afterSend b⟩)
    · exact .inl (State.slot_afterSend_ne k b hj)

section PendingCases
variable {i : Instr} {s t : State}

/-- What an operation can do to the Narrow field. -/
theorem Serves.pendingNarrow_cases (h : Serves s i t) (j : SlotIx) :
    (t.slot j).pendingNarrow = (s.slot j).pendingNarrow ∨ (s.slot j).width = .narrow ∧
      ((∃ w, i = .wrHigh j w ∧ (t.slot j).pendingNarrow = lowHalf w) ∨
       ∃ b k, i = .wrSend j b ∧ s.CanSend j k ∧
        ∀ p, (t.slot j).pendingNarrow.getLsbD p = ((s.slot j).pendingNarrow.getLsbD p || decide (p = b.toNat))) := by
  obtain hkept | hwrite | ⟨b, k, hi, hsend, hb, hslot⟩ := h.slot_cases j
  · exact .inl (by rw [hkept])
  · generalize t.slot j = v at hwrite ⊢
    cases hwrite with
    | low | highHi | active => exact .inl rfl
    | high w =>
      cases hwidth : (s.slot j).width with
      | wide => exact .inl (by rw [Slot.withLive_of_wide w hwidth])
      | narrow => exact .inr ⟨rfl, .inl ⟨w, rfl, by rw [Slot.withLive_of_narrow w hwidth]⟩⟩
  · rw [hslot]
    cases hwidth : (s.slot j).width with
    | wide => exact .inl (by rw [Slot.setLiveBit_of_wide hwidth])
    | narrow =>
      rw [Slot.liveBits_of_narrow hwidth] at hb
      exact .inr ⟨rfl, .inr ⟨b, k, hi, hsend, Slot.getLsbD_pendingNarrow_setLiveBit hwidth hb⟩⟩

/-- What an operation can do to the Wide field. -/
theorem Serves.pendingWide_cases (h : Serves s i t) (j : SlotIx) :
    (t.slot j).pendingWide = (s.slot j).pendingWide ∨ (s.slot j).width = .wide ∧
      ((∃ w, i = .wrHigh j w ∧ (t.slot j).pendingWide = w) ∨
       (∃ w, i = .wrHighHi j w ∧ (t.slot j).pendingWide = ((s.slot j).orWideHigh w).pendingWide) ∨
       ∃ b k, i = .wrSend j b ∧ s.CanSend j k ∧
        ∀ p, (t.slot j).pendingWide.getLsbD p = ((s.slot j).pendingWide.getLsbD p || decide (p = b.toNat))) := by
  obtain hkept | hwrite | ⟨b, k, hi, hsend, hb, hslot⟩ := h.slot_cases j
  · exact .inl (by rw [hkept])
  · generalize t.slot j = v at hwrite ⊢
    cases hwrite with
    | low | active => exact .inl rfl
    | highHi w hwide => exact .inr ⟨hwide, .inr (.inl ⟨w, rfl, rfl⟩)⟩
    | high w =>
      cases hwidth : (s.slot j).width with
      | narrow => exact .inl (by rw [Slot.withLive_of_narrow w hwidth])
      | wide => exact .inr ⟨rfl, .inl ⟨w, rfl, by rw [Slot.withLive_of_wide w hwidth]⟩⟩
  · rw [hslot]
    cases hwidth : (s.slot j).width with
    | narrow => exact .inl (by rw [Slot.setLiveBit_of_narrow hwidth])
    | wide =>
      rw [Slot.liveBits_of_wide hwidth] at hb
      exact .inr ⟨rfl, .inr (.inr ⟨b, k, hi, hsend, Slot.getLsbD_pendingWide_setLiveBit hwidth hb⟩)⟩

end PendingCases

theorem getLsbD_lowHalf (w : Word) (p : Nat) : (lowHalf w).getLsbD p = (decide (p < 32) && w.getLsbD p) := by
  rw [lowHalf, BitVec.getLsbD_extractLsb', Nat.zero_add]

/-- R114: WR.HIGH_HI adds the low bits of its datum from bit 32 on. -/
theorem Slot.getLsbD_pendingWide_orWideHigh (v : Slot) (w : Word) (p : Nat) :
    (v.orWideHigh w).pendingWide.getLsbD p =
      (v.pendingWide.getLsbD p || (decide (32 ≤ p ∧ p < 64) && w.getLsbD (p - 32))) := by
  rw [Slot.orWideHigh, BitVec.getLsbD_or, BitVec.getLsbD_shiftLeft, getLsbD_zext32, getLsbD_lowHalf]
  by_cases hlo : 32 ≤ p
  · by_cases hhi : p < 64
    · have hp : p - 32 < 32 := by omega
      simp [hlo, hlo.not_gt, hhi, hp]
    · simp [hhi]
  · simp [hlo, Nat.lt_of_not_le hlo]

/-- A bit that an or leaves 0 was 0, so an or clears no bit. -/
theorem or_ne_false_of_true {a b c : Bool} (h : c = (a || b)) (ha : a = true) : c ≠ false := by
  simp [h, ha]

/-- Settles O45: both fields change only by a write or a send to the slot with the field's width; what HIGH writes
replaces the field, and the others only add bits. -/
theorem pendingBitsChangeOnlyByTheirRules : Obligations.PendingBitsChangeOnlyByTheirRules := by
  intro i j p s
  obtain ⟨t, ht, hserves⟩ := exec_serves i s
  refine ⟨t, ht, fun hold hnew => ?_, fun hold hnew => ?_, fun hold hnew => ?_, fun hold hnew => ?_⟩
  · obtain hkept | ⟨hwidth, ⟨w, hi, hv⟩ | ⟨b, k, hi, hsend, hv⟩⟩ := hserves.pendingNarrow_cases j
    · rw [hkept, hold] at hnew; cases hnew
    · rw [hv, getLsbD_lowHalf, Bool.and_eq_true] at hnew
      exact ⟨hwidth, .inl ⟨w, hi, hnew.2⟩⟩
    · rw [hv, hold, Bool.false_or, decide_eq_true_iff] at hnew
      exact ⟨hwidth, .inr ⟨b, k, hi, hnew.symm, hsend⟩⟩
  · obtain hkept | ⟨hwidth, ⟨w, hi, hv⟩ | ⟨b, k, hi, hsend, hv⟩⟩ := hserves.pendingNarrow_cases j
    · rw [hkept, hold] at hnew; cases hnew
    · have hp : p < 32 := BitVec.lt_of_getLsbD hold
      rw [hv, getLsbD_lowHalf, decide_eq_true hp, Bool.true_and] at hnew
      exact ⟨hwidth, w, hi, hnew⟩
    · exact absurd hnew (or_ne_false_of_true (hv p) hold)
  · obtain hkept | ⟨hwidth, ⟨w, hi, hv⟩ | ⟨w, hi, hv⟩ | ⟨b, k, hi, hsend, hv⟩⟩ := hserves.pendingWide_cases j
    · rw [hkept, hold] at hnew; cases hnew
    · exact ⟨hwidth, .inl ⟨w, hi, hv ▸ hnew⟩⟩
    · rw [hv, Slot.getLsbD_pendingWide_orWideHigh, hold, Bool.false_or, Bool.and_eq_true, decide_eq_true_iff] at hnew
      exact ⟨hwidth, .inr (.inl ⟨w, hi, hnew.1.1, hnew.2⟩)⟩
    · rw [hv, hold, Bool.false_or, decide_eq_true_iff] at hnew
      exact ⟨hwidth, .inr (.inr ⟨b, k, hi, hnew.symm, hsend⟩)⟩
  · obtain hkept | ⟨hwidth, ⟨w, hi, hv⟩ | ⟨w, hi, hv⟩ | ⟨b, k, hi, hsend, hv⟩⟩ := hserves.pendingWide_cases j
    · rw [hkept, hold] at hnew; cases hnew
    · exact ⟨hwidth, w, hi, hv ▸ hnew⟩
    · rw [hv] at hnew
      exact absurd hnew (or_ne_false_of_true (Slot.getLsbD_pendingWide_orWideHigh (s.slot j) w p) hold)
    · exact absurd hnew (or_ne_false_of_true (hv p) hold)

end Sys2Proof.Machine
end

section
/-! PROOF. Construction and the bus address mapping (R41, R170, R171, R174). -/

namespace Sys2Proof.Machine

/-- R171, R174: the checks of `create` together are the preconditions and that no wired hart is claimed. -/
theorem create_eq_ok_iff {base : BitVec 64} {hartIdBase : HartId} {numHarts : BitVec 32} {registry claimed : List HartId}
    {s : State} : create base hartIdBase numHarts registry claimed = .ok s ↔
      configValid ⟨base, hartIdBase, numHarts, registry⟩ = true ∧
      (∀ h ∈ wiredHarts ⟨base, hartIdBase, numHarts, registry⟩, h ∉ claimed) ∧
      s = State.construct ⟨base, hartIdBase, numHarts, registry⟩ := by
  simp only [create, configValid]
  constructor
  · intro h
    -- every check that fails answers an error, so only the last branch is left
    split_ifs at h
    cases h
    simp_all
  · rintro ⟨hvalid, hclaimed, rfl⟩
    simp_all

/-- Settles O51: the wired harts are the ids in `[hartIdBase, hartIdBase + numHarts)`, which no id wraps out of. -/
theorem createSucceedsExactlyOnValidArguments : Obligations.CreateSucceedsExactlyOnValidArguments := by
  intro base hartIdBase numHarts registry claimed
  have hwired := @mem_wiredHarts_iff ⟨base, hartIdBase, numHarts, registry⟩
  simp only [create_eq_ok_iff]
  constructor
  · simp only [exists_and_left, exists_eq, and_true, configValid_iff]
    constructor
    · rintro ⟨⟨hfit, haligned, hsome, hids, hwindow, hpresent⟩, hclaimed⟩
      refine ⟨hfit, haligned, hsome, hids, hwindow, fun h hlo hhi => ?_⟩
      have hmem := (hwired hids).mpr ⟨hlo, hhi⟩
      exact ⟨List.contains_iff_mem.mp (hpresent h hmem), hclaimed h hmem⟩
    · rintro ⟨hfit, haligned, hsome, hids, hwindow, hharts⟩
      refine ⟨⟨hfit, haligned, hsome, hids, hwindow, fun h hmem => ?_⟩, fun h hmem => ?_⟩
      · obtain ⟨hlo, hhi⟩ := (hwired hids).mp hmem
        exact List.contains_iff_mem.mpr (hharts h hlo hhi).1
      · obtain ⟨hlo, hhi⟩ := (hwired hids).mp hmem
        exact (hharts h hlo hhi).2
  · rintro s ⟨hvalid, -, rfl⟩
    exact ⟨rfl, hvalid⟩

/-- A request joins the end of its master's queue and no other. -/
theorem getD_enqueue (ms : List (List Request)) (m : Nat) (r : Request) (n : Nat) :
    (enqueue ms m r).getD n [] = if n = m then ms.getD n [] ++ [r] else ms.getD n [] := by
  fun_induction enqueue ms m r generalizing n with
  | case1 => cases n with
    | zero => rfl
    | succ n => rfl
  | case2 m ih => cases n with
    | zero => rfl
    | succ n => simpa using ih n
  | case3 q rest => cases n with
    | zero => rfl
    | succ n => rfl
  | case4 q rest m ih => cases n with
    | zero => rfl
    | succ n => simpa using ih n

theorem State.queue_issue (s : State) (m : Nat) (r : Request) (n : Nat) :
    (s.issue m r).queue n = if n = m then s.queue n ++ [r] else s.queue n :=
  getD_enqueue s.masters m r n

/-- Settles O52: the bus subtracts the base, and the request joins its master's queue. -/
theorem busAddressesReachTheBlockAsOffsets : Obligations.BusAddressesReachTheBlockAsOffsets := by
  intro s m we addr w
  constructor
  · intro hbelow
    rw [State.issueAt, offsetOf, if_neg hbelow.not_ge]
    rfl
  · intro habove
    refine ⟨addr - s.cfg.baseAddress, s.issue m ⟨we, addr - s.cfg.baseAddress, w⟩, ?_,
      BitVec.toNat_sub_of_le (BitVec.le_def.mpr habove), ?_, fun n hn => ?_, rfl⟩
    · rw [State.issueAt, offsetOf, if_pos habove]
      rfl
    · rw [State.queue_issue, if_pos rfl]
    · rw [State.queue_issue, if_neg hn]

end Sys2Proof.Machine
end

section
/-! PROOF. The step, the arbiter and the masters (R49 to R54, R154). -/

namespace Sys2Proof.Machine

/-- Settles O53, by the three branches of the step. -/
theorem stepRunsTheDecodedOperation : Obligations.StepRunsTheDecodedOperation := by
  refine ⟨fun s t m r hvalid hnext hexec => ?_, fun s hvalid hidle => ?_, fun s hinvalid => ?_⟩
  · rw [step, if_pos hvalid]
    simp only [hnext, hexec]
    rfl
  · rw [step, if_pos hvalid]
    simp only [hidle]
  · rw [step, if_neg (by rw [hinvalid]; exact Bool.false_ne_true)]

section Requesting
variable {s : State} {m : Nat}

theorem mem_requestingFrom_iff (ms : List (List Request)) (k m : Nat) :
    m ∈ requestingFrom k ms ↔ ∃ n, m = k + n ∧ ms.getD n [] ≠ [] := by
  induction ms generalizing k with
  | nil => simp [requestingFrom]
  | cons q rest ih =>
    have hsucc : ∀ n, k + 1 + n = k + (n + 1) := fun n => by omega
    rw [← Nat.or_exists_add_one]
    cases q with
    | nil => simp [requestingFrom, ih, hsucc]
    | cons r q => simp [requestingFrom, ih, hsucc]

/-- The masters the arbiter chooses from are those that have a transaction outstanding. -/
theorem State.mem_requesting_iff : m ∈ s.requesting ↔ s.queue m ≠ [] := by
  simp [State.requesting, mem_requestingFrom_iff, State.queue]

theorem State.nextTransaction_of_granted {r : Request} {rest : List Request} (hgranted : s.grantedMaster = some m)
    (hqueue : s.queue m = r :: rest) : s.nextTransaction = some (m, r) := by
  simp only [State.nextTransaction, hgranted, hqueue]
  rfl

/-- The arbiter grants a master whenever one has a transaction outstanding (R51). -/
theorem State.nextTransaction_cases (s : State) :
    (s.nextTransaction = none ∧ ∀ m, s.queue m = []) ∨
    ∃ m r rest, s.nextTransaction = some (m, r) ∧ s.queue m = r :: rest := by
  cases hgranted : s.grantedMaster with
  | none =>
    refine .inl ⟨by simp only [State.nextTransaction, hgranted], fun m => ?_⟩
    by_contra hqueue
    have hpos : 0 < s.requesting.length := List.length_pos_of_mem (State.mem_requesting_iff.mpr hqueue)
    have hge := List.getElem?_eq_none_iff.mp hgranted
    exact absurd (Nat.mod_lt s.pick hpos) hge.not_gt
  | some m =>
    have hmem : m ∈ s.requesting := List.mem_of_getElem? hgranted
    obtain ⟨r, rest, hqueue⟩ := List.exists_cons_of_ne_nil (State.mem_requesting_iff.mp hmem)
    exact .inr ⟨m, r, rest, State.nextTransaction_of_granted hgranted hqueue, hqueue⟩

end Requesting

/-- Settles O54: the pick is the place of the master among those that have a transaction outstanding. -/
theorem arbiterMayServeAnyMaster : Obligations.ArbiterMayServeAnyMaster := by
  intro s m r rest hqueue
  have hmem : m ∈ s.requesting := State.mem_requesting_iff.mpr (by rw [hqueue]; exact List.cons_ne_nil r rest)
  obtain ⟨c, hc, hget⟩ := List.getElem_of_mem hmem
  have hplace : s.requesting[c % s.requesting.length]? = some m := by
    rw [Nat.mod_eq_of_lt hc, List.getElem?_eq_getElem hc, hget]
  exact ⟨c, fun cs => State.nextTransaction_of_granted hplace hqueue⟩

section Masters
variable {ms : List (List Request)} {m : Nat}

theorem getD_modify_tail (ms : List (List Request)) (m n : Nat) :
    (ms.modify m List.tail).getD n [] = if m = n then (ms.getD n []).tail else ms.getD n [] := by
  rw [List.getD_eq_getElem?_getD, List.getElem?_modify, List.getD_eq_getElem?_getD]
  cases ms[n]? with
  | none => simp
  | some q => simp only [Option.map_eq_map, Option.map_some, Option.getD_some]

/-- Serving a master's first request leaves the others outstanding. -/
theorem flatten_perm_of_getD_eq_cons {r : Request} {rest : List Request} (h : ms.getD m [] = r :: rest) :
    ms.flatten.Perm (r :: (ms.modify m List.tail).flatten) := by
  induction ms generalizing m with
  | nil => cases h
  | cons q ms ih =>
    cases m with
    | zero =>
      obtain rfl : q = r :: rest := h
      exact .refl _
    | succ m => exact ((ih h).append_left q).trans List.perm_middle

theorem flatten_eq_nil_of_getD_eq_nil (h : ∀ m, ms.getD m [] = []) : ms.flatten = [] := by
  rw [List.flatten_eq_nil_iff]
  intro q hq
  obtain ⟨m, hm, rfl⟩ := List.getElem_of_mem hq
  rw [← h m, List.getD_eq_getElem _ _ hm]

theorem getD_eq_nil_of_flatten_eq_nil (h : ms.flatten = []) (m : Nat) : ms.getD m [] = [] := by
  by_cases hm : m < ms.length
  · rw [List.getD_eq_getElem _ _ hm]
    exact List.flatten_eq_nil_iff.mp h _ (List.getElem_mem hm)
  · rw [List.getD_eq_default _ _ (Nat.le_of_not_lt hm)]

end Masters

theorem State.outstanding_eq (s : State) : s.outstanding = s.masters.flatten.length := List.length_flatten.symm

theorem State.outstanding_eq_zero_iff (s : State) : s.outstanding = 0 ↔ ∀ m, s.queue m = [] := by
  rw [State.outstanding_eq, List.length_eq_zero_iff]
  exact ⟨getD_eq_nil_of_flatten_eq_nil, flatten_eq_nil_of_getD_eq_nil⟩

theorem exec_bus {i : Instr} {s t : State} (h : exec i s = .next t) : t.masters = s.masters ∧ t.served = s.served := by
  obtain ⟨e, rfl, -⟩ := exec_next_eq_apply h
  exact ⟨rfl, rfl⟩

/-- Everything a step that goes on can do to the bus side: nothing, with nothing outstanding, or serve the first
request of a master. -/
theorem step_serves {s t : State} (h : step s = .next t) :
    (s.outstanding = 0 ∧ t = s) ∨
    ∃ m r rest u, s.queue m = r :: rest ∧ exec (decode r) s = .next u ∧ t = u.complete m r := by
  obtain ⟨-, ⟨hidle, rfl⟩ | ⟨m, r, u, hnext, hexec, rfl⟩⟩ := step_cases h
  · obtain ⟨-, hnone⟩ | ⟨m, r, rest, hnext, -⟩ := t.nextTransaction_cases
    · exact .inl ⟨t.outstanding_eq_zero_iff.mpr hnone, rfl⟩
    · rw [hidle] at hnext; cases hnext
  · obtain ⟨rest, hqueue⟩ := List.head?_eq_some_iff.mp (nextTransaction_eq_some hnext).2
    exact .inr ⟨m, r, rest, u, hqueue, hexec, rfl⟩

section Served
variable {s u : State} {m : Nat} {r : Request} {rest : List Request}

theorem State.servedOf_complete (u : State) (m : Nat) (r : Request) (n : Nat) :
    (u.complete m r).servedOf n = u.servedOf n ++ if m = n then [r] else [] := by
  by_cases h : m = n
  · simp [State.servedOf, List.filter_append, h]
  · simp [State.servedOf, List.filter_append, h]

/-- R53: a served request moves from the head of its master's queue to the end of what that master was served. -/
theorem servedOf_append_queue_complete (hqueue : s.queue m = r :: rest) (hexec : exec (decode r) s = .next u) (n : Nat) :
    (u.complete m r).servedOf n ++ (u.complete m r).queue n = s.servedOf n ++ s.queue n := by
  obtain ⟨hmasters, hserved⟩ := exec_bus hexec
  have hq : (u.complete m r).queue n = if m = n then (s.queue n).tail else s.queue n := by
    rw [State.queue, State.complete_masters, hmasters]
    exact getD_modify_tail s.masters m n
  have hs : u.servedOf n = s.servedOf n := by rw [State.servedOf, hserved, State.servedOf]
  rw [State.servedOf_complete, hq, hs]
  by_cases h : m = n
  · subst h
    simp [hqueue]
  · simp [h]

theorem masters_perm_complete (hqueue : s.queue m = r :: rest) (hexec : exec (decode r) s = .next u) :
    s.masters.flatten.Perm (r :: (u.complete m r).masters.flatten) := by
  rw [State.complete_masters, (exec_bus hexec).1]
  exact flatten_perm_of_getD_eq_cons hqueue

theorem outstanding_complete (hqueue : s.queue m = r :: rest) (hexec : exec (decode r) s = .next u) :
    (u.complete m r).outstanding + 1 = s.outstanding := by
  rw [State.outstanding_eq, State.outstanding_eq, (masters_perm_complete hqueue hexec).length_eq, List.length_cons]

theorem served_length_complete (hexec : exec (decode r) s = .next u) :
    (u.complete m r).served.length = s.served.length + 1 := by
  rw [State.complete_served, (exec_bus hexec).2, List.length_append, List.length_singleton]

end Served

/-- Settles O55: a step that is not idle moves one request from its queue to what its master was served. -/
theorem eachMasterIsServedInItsOwnOrder : Obligations.EachMasterIsServedInItsOwnOrder := by
  intro s t hstep
  obtain ⟨hzero, rfl⟩ | ⟨m, r, rest, u, hqueue, hexec, rfl⟩ := step_serves hstep
  · exact ⟨fun _ => rfl, fun hpos => absurd hzero hpos.ne'⟩
  · exact ⟨servedOf_append_queue_complete hqueue hexec,
      fun _ => ⟨outstanding_complete hqueue hexec, served_length_complete hexec⟩⟩

theorem run_succ_of_step {M : Host.Core} {s t : M.State} (h : M.step s = .next t) (n : Nat) :
    M.run (n + 1) s = M.run n t := by
  rw [Host.Core.run, h]

/-- The induction over the transactions served until none is outstanding: a relation of the first to the last state
that holds when nothing is outstanding and that serving one more transaction first keeps, holds of a whole run. -/
theorem run_outstanding_induction {R : State → State → Prop} (hidle : ∀ s, s.outstanding = 0 → R s s)
    (hserve : ∀ s u t m r rest, s.queue m = r :: rest → exec (decode r) s = .next u → R (u.complete m r) t → R s t)
    (s : State) (hvalid : configValid s.cfg = true) :
    ∃ t : State, Sys2Proof.core.run s.outstanding s = .next t ∧ t.outstanding = 0 ∧ R s t := by
  induction hn : s.outstanding generalizing s with
  | zero => exact ⟨s, rfl, hn, hidle s hn⟩
  | succ n ih =>
    obtain ⟨s', hstep⟩ := everyTransactionCompletes.2 s hvalid
    obtain ⟨hzero, -⟩ | ⟨m, r, rest, u, hqueue, hexec, rfl⟩ := step_serves hstep
    · rw [hn] at hzero; cases hzero
    · have hvalid' : configValid (u.complete m r).cfg = true := by rw [step_cfg hstep, hvalid]
      have hcount := outstanding_complete hqueue hexec
      obtain ⟨t, hrun, hzero, hR⟩ := ih (u.complete m r) hvalid' (by omega)
      exact ⟨t, (run_succ_of_step (M := Sys2Proof.core) hstep n).trans hrun, hzero, hserve s u t m r rest hqueue hexec hR⟩

/-- Every transaction outstanding in `s` has been served in `t`, each master's in its own order, or is still queued. -/
def ServedInOrder (s t : State) : Prop :=
  t.served.length + t.outstanding = s.served.length + s.outstanding ∧
  ∀ m, t.servedOf m ++ t.queue m = s.servedOf m ++ s.queue m

theorem ServedInOrder.serve {s u t : State} {m : Nat} {r : Request} {rest : List Request}
    (hqueue : s.queue m = r :: rest) (hexec : exec (decode r) s = .next u) (h : ServedInOrder (u.complete m r) t) :
    ServedInOrder s t := by
  obtain ⟨hlen, horder⟩ := h
  have hcount := outstanding_complete hqueue hexec
  have hserved := served_length_complete (m := m) hexec
  exact ⟨by omega, fun n => (horder n).trans (servedOf_append_queue_complete hqueue hexec n)⟩

/-- Settles O56: when nothing is outstanding any more, what was queued has been served, in its order. -/
theorem everyIssuedTransactionIsServed : Obligations.EveryIssuedTransactionIsServed := by
  intro s hvalid
  obtain ⟨t, hrun, hzero, hlen, horder⟩ := run_outstanding_induction (R := ServedInOrder)
    (fun s _ => ⟨rfl, fun _ => rfl⟩) (fun _ _ _ _ _ _ => ServedInOrder.serve) s hvalid
  have hempty := t.outstanding_eq_zero_iff.mp hzero
  exact ⟨t, hrun, hzero, by omega, fun m => by rw [← horder m, hempty m, List.append_nil]⟩

/-- The outstanding requests are all in-range sends to slot `i`. -/
def OnlySendsTo (i : SlotIx) (s : State) : Prop :=
  ∀ r ∈ s.masters.flatten, decode r = .wrSend i r.wdata ∧ r.wdata.toNat < (s.slot i).liveBits

/-- From `s` to `t` the slot gained the bits of the sends outstanding in `s` and line `k` one edge for each; no other
slot and no event was touched. -/
structure SendsServed (i : SlotIx) (k : Nat) (s t : State) : Prop where
  bits : ∀ p, (t.slot i).live.getLsbD p = true ↔
    (s.slot i).live.getLsbD p = true ∨ ∃ r ∈ s.masters.flatten, r.wdata.toNat = p
  edges : t.edges = s.edges ++ List.replicate s.outstanding k
  diags : t.diags = s.diags
  others : ∀ j, j ≠ i → t.slot j = s.slot j

/-- A send served first adds its bit and its edge, and leaves the other senders able to send. -/
theorem SendsServed.serve {i : SlotIx} {k : Nat} {s u t : State} {m : Nat} {r : Request} {rest : List Request}
    (hqueue : s.queue m = r :: rest) (hexec : exec (decode r) s = .next u)
    (h : (u.complete m r).CanSend i k → OnlySendsTo i (u.complete m r) → SendsServed i k (u.complete m r) t)
    (hsend : s.CanSend i k) (honly : OnlySendsTo i s) : SendsServed i k s t := by
  have hperm := masters_perm_complete hqueue hexec
  have hcount := outstanding_complete hqueue hexec
  obtain ⟨hdecode, hb⟩ := honly r (hperm.mem_iff.mpr List.mem_cons_self)
  rw [hdecode, hsend.exec_wrSend hb] at hexec
  obtain rfl := Host.Outcome.next.inj hexec
  have hready := hsend.afterSend r.wdata
  have hslot : (s.afterSend i k r.wdata).slot i = (s.slot i).setLiveBit r.wdata := State.slot_afterSend r.wdata
  obtain ⟨hbits, hedges, hdiags, hothers⟩ :=
    h ⟨hready.active, hready.present, hready.target, hready.wired⟩ fun q hq => by
      obtain ⟨hq', hlt⟩ := honly q (hperm.mem_iff.mpr (List.mem_cons_of_mem r hq))
      rw [State.slot_complete, hslot, Slot.setLiveBit_liveBits]
      exact ⟨hq', hlt⟩
  constructor
  case bits =>
    intro p
    rw [hbits, State.slot_complete, hslot, Slot.getLsbD_live_setLiveBit hb]
    simp [hperm.mem_iff, or_assoc, eq_comm (a := p)]
  case edges =>
    rw [hedges, ← hcount, List.replicate_succ]
    simp
  case diags => exact hdiags
  case others => exact fun j hj => (hothers j hj).trans (State.slot_afterSend_ne k r.wdata hj)

/-- Settles O57, by the induction over the transactions served: whatever order they are served in, the bits left to
add are those of the requests left. -/
theorem concurrentSendsLoseNoBit : Obligations.ConcurrentSendsLoseNoBit := by
  intro s i k hvalid hsend honly
  have hidle : ∀ s : State, s.outstanding = 0 → s.CanSend i k → OnlySendsTo i s → SendsServed i k s s := by
    intro s hzero _ _
    have hnil : s.masters.flatten = [] := by rwa [State.outstanding_eq, List.length_eq_zero_iff] at hzero
    exact ⟨by simp [hnil], by simp [hzero], rfl, fun _ _ => rfl⟩
  obtain ⟨t, hrun, hzero, hserved⟩ := run_outstanding_induction
    (R := fun s t => s.CanSend i k → OnlySendsTo i s → SendsServed i k s t) hidle
    (fun _ _ _ _ _ _ => SendsServed.serve) s hvalid
  obtain ⟨hbits, hedges, hdiags, hothers⟩ := hserved hsend fun r hr => by
    obtain ⟨q, hq, hmem⟩ := List.mem_flatten.mp hr
    exact honly q hq r hmem
  refine ⟨t, hrun, hzero, fun p => (hbits p).trans (or_congr_right ?_), hedges, hdiags, hothers⟩
  simp only [List.mem_flatten]
  constructor
  · rintro ⟨r, ⟨q, hq, hr⟩, hp⟩
    exact ⟨q, hq, r, hr, hp⟩
  · rintro ⟨q, hq, r, hr, hp⟩
    exact ⟨r, ⟨q, hq, hr⟩, hp⟩

end Sys2Proof.Machine
end
